-- ==== Sys2Proof/Word.lean ====
section
/-! DEFINITION. The word of the register window and the bits of the buffers. -/

namespace Sys2Proof

/-- A register value or the data of a host access: 32 bits, bit 0 the least significant (R41, R57). -/
abbrev Word := BitVec 32

/-- A bit, a value in the two-element set 0, 1 that no rule treats as a number (R10): `true` is 1. -/
abbrev Bit := Bool

/-- A sequence of bits; index 0 is the first bit, the leftmost character (R10, R40). -/
abbrev Bits := List Bit

end Sys2Proof
end

