-- ==== Sys2Proof/Syntax.lean ====
section
/-! DEFINITION. The operations of the block: one constructor of `Instr` for each row of spec/opcode_table.json. -/

namespace Sys2Proof

/-- The direction of a host access (R55): the table's key has 0 for a read and 1 for a write. -/
inductive Dir
  | read
  | write
deriving DecidableEq, Repr

/-- The operations. The first fourteen are commands, the values of OP (and B) in a word written to CMD (R59 to R62): the
constructor stands for the command's EXECUTION, by the engine for ENCODE to RUN and at the CMD write for NOP, CLEAR and the
reserved opcodes (R60). The other thirty are the register accesses of R56: `wr…` holds the 32-bit value written. A row that
covers several opcodes or offsets holds which one it is. -/
inductive Instr
  -- commands
  | nop
  | encode
  | padsplit
  | interleave
  | corrupt
  | deinterleave
  | deinterleaveB
  | decode
  | run
  | runB
  | clear
  | reservedOp9
  | reservedOpAB (op : BitVec 4)
  | reservedOpCF (op : BitVec 4)
  -- register accesses
  | wrCmd (v : Word)
  | rdStatus
  | wrN (v : Word)
  | rdN
  | wrM (v : Word)
  | rdM
  | wrT (v : Word)
  | rdT
  | wrFrameIn (v : Word)
  | wrRdSel (v : Word)
  | rdRdSel
  | wrRdIdx (v : Word)
  | rdRdIdx
  | rdRdData
  | rdRdLen
  | rdCapFrame
  | rdCapBuf
  | wrStatus (v : Word)
  | wrRdData (v : Word)
  | wrRdLen (v : Word)
  | wrCapFrame (v : Word)
  | wrCapBuf (v : Word)
  | rdCmd
  | rdFrameIn
  | rdReserved30 (off : BitVec 8)
  | rdReserved40 (off : BitVec 8)
  | rdReserved80 (off : BitVec 8)
  | wrReserved30 (off : BitVec 8) (v : Word)
  | wrReserved40 (off : BitVec 8) (v : Word)
  | wrReserved80 (off : BitVec 8) (v : Word)
deriving DecidableEq, Repr

/-- The two kinds of operation as the table numbers their bits (R54, R55, R59): an access by its 9-bit key `dir << 8 | off`
with its 32-bit data (0 for a read), and a command by its 32-bit word. -/
inductive Operation
  | access (key : BitVec 9) (data : Word)
  | command (word : Word)
deriving DecidableEq, Repr

end Sys2Proof
end

