-- ==== Sys2Proof/WellFormed.lean ====
section
/-! DEFINITION. Which terms of `Instr` the encoding has a word for: an operand of a row that covers several opcodes or offsets
must lie in that row. -/

namespace Sys2Proof

/-- An operand lies in its row of the table: the fixed bits of the row's mask have the row's value (R56, R62). -/
def Instr.WellFormed : Instr → Bool
  | .reservedOpAB op => op &&& 0xE#4 == 0xA#4
  | .reservedOpCF op => op &&& 0xC#4 == 0xC#4
  | .rdReserved30 off => off &&& 0xF3#8 == 0x30#8
  | .rdReserved40 off => off &&& 0xC3#8 == 0x40#8
  | .rdReserved80 off => off &&& 0x83#8 == 0x80#8
  | .wrReserved30 off _ => off &&& 0xF3#8 == 0x30#8
  | .wrReserved40 off _ => off &&& 0xC3#8 == 0x40#8
  | .wrReserved80 off _ => off &&& 0x83#8 == 0x80#8
  | .nop | .encode | .padsplit | .interleave | .corrupt | .deinterleave | .deinterleaveB | .decode | .run | .runB | .clear
  | .reservedOp9 | .wrCmd _ | .rdStatus | .wrN _ | .rdN | .wrM _ | .rdM | .wrT _ | .rdT | .wrFrameIn _ | .wrRdSel _
  | .rdRdSel | .wrRdIdx _ | .rdRdIdx | .rdRdData | .rdRdLen | .rdCapFrame | .rdCapBuf | .wrStatus _ | .wrRdData _
  | .wrRdLen _ | .wrCapFrame _ | .wrCapBuf _ | .rdCmd | .rdFrameIn => true

end Sys2Proof
end

