-- ==== Sys2Proof/Decode.lean ====
section
/-! DEFINITION. The decoder (R54 to R62, R67), total on any operation, and the encoder written from the same tables. -/

namespace Sys2Proof

/-- Why an operation is no row of the table. Raised by `decode`; safe: the block has no step for it (R42, X4). -/
inductive DecodeError
  /-- The offset of an access is not a multiple of 4. -/
  | misaligned
deriving DecidableEq, Repr

/-! ### The command word -/

/-- OP, bits 3:0 of a command word (R59). -/
def cmdOp (v : Word) : BitVec 4 := v.extractLsb' 0 4

/-- B, bit 4 of a command word: the channel-bypass bit (R59, R61). -/
def cmdB (v : Word) : Bool := v.getLsbD 4

/-- The command that OP and B select (R60 to R62). B matters only to DEINTERLEAVE and RUN (R61); bits 31:5 of the word are
ignored, so a word decodes by these two fields alone. -/
def commandOf (op : BitVec 4) (b : Bool) : Instr :=
  if op = 0x0#4 then .nop
  else if op = 0x1#4 then .encode
  else if op = 0x2#4 then .padsplit
  else if op = 0x3#4 then .interleave
  else if op = 0x4#4 then .corrupt
  else if op = 0x5#4 then (if b then .deinterleaveB else .deinterleave)
  else if op = 0x6#4 then .decode
  else if op = 0x7#4 then (if b then .runB else .run)
  else if op = 0x8#4 then .clear
  else if op = 0x9#4 then .reservedOp9
  else if op &&& 0xE#4 = 0xA#4 then .reservedOpAB op
  else .reservedOpCF op

/-- The command of a word written to CMD: every word is exactly one command (R60, R67). -/
def decodeCommand (v : Word) : Instr := commandOf (cmdOp v) (cmdB v)

/-! ### The register access -/

/-- The read of an aligned offset (R56); from 0x30 on the offsets are reserved (R89), in the table's three blocks. -/
def decodeRead (off : BitVec 8) : Instr :=
  if off = 0x00#8 then .rdCmd
  else if off = 0x04#8 then .rdStatus
  else if off = 0x08#8 then .rdN
  else if off = 0x0C#8 then .rdM
  else if off = 0x10#8 then .rdT
  else if off = 0x14#8 then .rdFrameIn
  else if off = 0x18#8 then .rdRdSel
  else if off = 0x1C#8 then .rdRdIdx
  else if off = 0x20#8 then .rdRdData
  else if off = 0x24#8 then .rdRdLen
  else if off = 0x28#8 then .rdCapFrame
  else if off = 0x2C#8 then .rdCapBuf
  else if off &&& 0xF3#8 = 0x30#8 then .rdReserved30 off
  else if off &&& 0xC3#8 = 0x40#8 then .rdReserved40 off
  else .rdReserved80 off

/-- The write of a value to an aligned offset (R56, R89). -/
def decodeWrite (off : BitVec 8) (v : Word) : Instr :=
  if off = 0x00#8 then .wrCmd v
  else if off = 0x04#8 then .wrStatus v
  else if off = 0x08#8 then .wrN v
  else if off = 0x0C#8 then .wrM v
  else if off = 0x10#8 then .wrT v
  else if off = 0x14#8 then .wrFrameIn v
  else if off = 0x18#8 then .wrRdSel v
  else if off = 0x1C#8 then .wrRdIdx v
  else if off = 0x20#8 then .wrRdData v
  else if off = 0x24#8 then .wrRdLen v
  else if off = 0x28#8 then .wrCapFrame v
  else if off = 0x2C#8 then .wrCapBuf v
  else if off &&& 0xF3#8 = 0x30#8 then .wrReserved30 off v
  else if off &&& 0xC3#8 = 0x40#8 then .wrReserved40 off v
  else .wrReserved80 off v

/-- The access (dir, off, data): the offset's two low bits must be 0 (R55), else it is no access of the block (R42). -/
def decodeAccess (dir : Dir) (off : BitVec 8) (v : Word) : Except DecodeError Instr :=
  if off.extractLsb' 0 2 = 0#2 then
    match dir with
    | .read => .ok (decodeRead off)
    | .write => .ok (decodeWrite off v)
  else .error .misaligned

/-- The table's key of an access: bit 8 the direction, bits 7:0 the offset. -/
def accessKey (dir : Dir) (off : BitVec 8) : BitVec 9 :=
  match dir with
  | .read => 0#1 ++ off
  | .write => 1#1 ++ off

/-- The direction in a key. -/
def keyDir (key : BitVec 9) : Dir := if key.getLsbD 8 then .write else .read

/-- The offset in a key. -/
def keyOff (key : BitVec 9) : BitVec 8 := key.extractLsb' 0 8

/-- The decoder, total: an access by its row of R56, a command by its row of R60. -/
def decode : Operation → Except DecodeError Instr
  | .access key v => decodeAccess (keyDir key) (keyOff key) v
  | .command w => .ok (decodeCommand w)

/-! ### The encoder -/

/-- The word of a command, ignored bits 0 (R60): OP in bits 3:0 and B in bit 4. -/
def commandWord (op : BitVec 4) (b : Bool) : Word := 0#27 ++ BitVec.ofBool b ++ op

/-- A read access, its data 0. -/
def readOf (off : BitVec 8) : Operation := .access (accessKey .read off) 0

/-- A write access. -/
def writeOf (off : BitVec 8) (v : Word) : Operation := .access (accessKey .write off) v

/-- The encoding of an operation by the tables of R56 and R60. -/
def encode : Instr → Operation
  | .nop => .command (commandWord 0x0 false)
  | .encode => .command (commandWord 0x1 false)
  | .padsplit => .command (commandWord 0x2 false)
  | .interleave => .command (commandWord 0x3 false)
  | .corrupt => .command (commandWord 0x4 false)
  | .deinterleave => .command (commandWord 0x5 false)
  | .deinterleaveB => .command (commandWord 0x5 true)
  | .decode => .command (commandWord 0x6 false)
  | .run => .command (commandWord 0x7 false)
  | .runB => .command (commandWord 0x7 true)
  | .clear => .command (commandWord 0x8 false)
  | .reservedOp9 => .command (commandWord 0x9 false)
  | .reservedOpAB op => .command (commandWord op false)
  | .reservedOpCF op => .command (commandWord op false)
  | .wrCmd v => writeOf 0x00 v
  | .rdStatus => readOf 0x04
  | .wrN v => writeOf 0x08 v
  | .rdN => readOf 0x08
  | .wrM v => writeOf 0x0C v
  | .rdM => readOf 0x0C
  | .wrT v => writeOf 0x10 v
  | .rdT => readOf 0x10
  | .wrFrameIn v => writeOf 0x14 v
  | .wrRdSel v => writeOf 0x18 v
  | .rdRdSel => readOf 0x18
  | .wrRdIdx v => writeOf 0x1C v
  | .rdRdIdx => readOf 0x1C
  | .rdRdData => readOf 0x20
  | .rdRdLen => readOf 0x24
  | .rdCapFrame => readOf 0x28
  | .rdCapBuf => readOf 0x2C
  | .wrStatus v => writeOf 0x04 v
  | .wrRdData v => writeOf 0x20 v
  | .wrRdLen v => writeOf 0x24 v
  | .wrCapFrame v => writeOf 0x28 v
  | .wrCapBuf v => writeOf 0x2C v
  | .rdCmd => readOf 0x00
  | .rdFrameIn => readOf 0x14
  | .rdReserved30 off => readOf off
  | .rdReserved40 off => readOf off
  | .rdReserved80 off => readOf off
  | .wrReserved30 off v => writeOf off v
  | .wrReserved40 off v => writeOf off v
  | .wrReserved80 off v => writeOf off v

/-! ### The opcode table's numbering -/

/-- The operation whose bits are `w` in the numbering of spec/opcode_table.json (log 9). The table has two formats and its widths
tell them apart: an access key has 9 bits, so its row has 16; a command row has 8 (when only OP and B are counted) or 32.
An access is its 16-bit key word and then its 32-bit data word, 0 above `nbits`. -/
def tableOperation (nbits w : Nat) : Option Operation :=
  if nbits ≤ 8 ∨ (16 < nbits ∧ nbits ≤ 32) then
    if w < 2 ^ 32 then some (.command (BitVec.ofNat 32 w)) else none
  else if nbits ≤ 48 then
    if w % 2 ^ 16 < 2 ^ 9 ∧ w < 2 ^ 48 then
      some (.access (BitVec.ofNat 9 (w % 2 ^ 16)) (BitVec.ofNat 32 (w / 2 ^ 16)))
    else none
  else none

/-- The instruction the decoder reads from the table's bits. -/
def decodeTableWord (nbits w : Nat) : Option Instr :=
  match tableOperation nbits w with
  | some o =>
    match decode o with
    | .ok i => some i
    | .error _ => none
  | none => none

end Sys2Proof
end

