-- ==== Sys2Proof/Machine/Datapath.lean ====
section
/-! DEFINITION. The datapath functions of R16: pure functions on sequences and naturals (R10, R11). -/

namespace Sys2Proof.Machine.Datapath

/-- `ceil_div(a, b)` of R11, for `b ≥ 1`. -/
def ceilDiv (a b : Nat) : Nat := (a + b - 1) / b

/-- `round_up(a, b)` of R11, for `b ≥ 1`. -/
def roundUp (a b : Nat) : Nat := ceilDiv a b * b

/-- The bit at an index. The rules read only indices that exist; 0 elsewhere (log 16). -/
def bitAt (x : Bits) (i : Nat) : Bit := x.getD i false

/-- The sub-sequence of `len` bits from index `a` on, cut at the end of `x` (the slices of R10 and the windows of R112). -/
def slice (x : Bits) (a len : Nat) : Bits := (x.drop a).take len

/-- `encode(f, n)`: each bit replaced by `n` copies of it, in order (R91). -/
def encode (f : Bits) (n : Nat) : Bits := f.flatMap fun b => List.replicate n b

/-- `pad(r, g)`: 0 bits appended up to the next multiple of `g` (R94). -/
def pad (r : Bits) (g : Nat) : Bits := r ++ List.replicate (roundUp r.length g - r.length) false

/-- `groups(p, g)`: the consecutive groups of `g` bits (R95). -/
def groups (p : Bits) (g : Nat) : List Bits := (List.range (p.length / g)).map fun k => slice p (k * g) g

/-- `interleave_group(x, m, t)`: output string `j` holds the bit at offset `j` of each sub-word, `y[j*t + k] = x[k*m + j]` (R98). -/
def interleaveGroup (x : Bits) (m t : Nat) : Bits :=
  (List.range m).flatMap fun j => (List.range t).map fun k => bitAt x (k * m + j)

/-- `interleave(p, m, t)`: every group transposed, in order (R99). -/
def interleave (p : Bits) (m t : Nat) : Bits := (groups p (m * t)).flatMap fun q => interleaveGroup q m t

/-- `corrupt_group(x)`: the bits at indices 1 and 2 flipped where they exist (R103). -/
def corruptGroup (x : Bits) : Bits := x.mapIdx fun i b => if i = 1 ∨ i = 2 then !b else b

/-- `corrupt(s, g)`: every group of `g` bits through the channel, in order (R104). -/
def corrupt (s : Bits) (g : Nat) : Bits := (groups s g).flatMap corruptGroup

/-- `deinterleave_group(x, m, t)`: row `i` holds offset `i` of each chunk, `y[i*m + c] = x[c*t + i]` (R107). -/
def deinterleaveGroup (x : Bits) (m t : Nat) : Bits :=
  (List.range t).flatMap fun i => (List.range m).map fun c => bitAt x (c * t + i)

/-- `deinterleave(s, m, t)`: every group transposed back, in order (R108). -/
def deinterleave (s : Bits) (m t : Nat) : Bits := (groups s (m * t)).flatMap fun q => deinterleaveGroup q m t

/-- The vote of one window: 1 exactly when its 1s outnumber its 0s, a tie giving 0 (R112, X22). -/
def vote (win : Bits) : Bit := decide (2 * win.count true > win.length)

/-- `decode(r, n, L)`: the vote of each window of `n` bits, the last possibly shorter, cut to the first `L` (R112). -/
def decode (r : Bits) (n L : Nat) : Bits :=
  ((List.range (ceilDiv r.length n)).map fun w => vote (slice r (w * n) n)).take L

end Sys2Proof.Machine.Datapath
end

