-- ==== Sys2Proof/Config.lean ====
section
/-! DEFINITION. What an implementation fixes (the parameters of R8) and the free values of the model. The constants without a
body have no value any proof can use: a statement that holds, holds whatever they are. -/

namespace Sys2Proof

/-- The parameters of R8 that the block's behaviour depends on. ENGINE_LATENCY, the fourth, is `Config.engineLatency`. -/
structure Params where
  /-- BASE_ADDR, the host address of register offset 0x00. -/
  baseAddr : Nat
  /-- CAP_FRAME, the capacity of FRAME and DEC in bits. -/
  capFrame : Nat
  /-- CAP_BUF, the capacity of each of RED, PAD, ILV, COR and REC in bits. -/
  capBuf : Nat
deriving DecidableEq, Repr

/-- The constraints R8 puts on the parameters. -/
abbrev Params.Legal (p : Params) : Prop :=
  p.baseAddr % 256 = 0 ∧ (1 ≤ p.capFrame ∧ p.capFrame < 2 ^ 32) ∧ (1 ≤ p.capBuf ∧ p.capBuf < 2 ^ 32)

/-- Free value (log 1): which 256-byte window of the host's map the block has (R8, X10). -/
opaque Config.windowIndex : Nat

/-- Free value (log 1): CAP_FRAME less one, so that every value R8 allows is possible and no other (X9). -/
opaque Config.capFrameLessOne : Fin 4294967295

/-- Free value (log 1): CAP_BUF less one (R8, X9). -/
opaque Config.capBufLessOne : Fin 4294967295

/-- The parameters of the implementation, every one a free value within the constraints of R8. -/
def Config.params : Params :=
  { baseAddr := 256 * Config.windowIndex
    capFrame := Config.capFrameLessOne.val + 1
    capBuf := Config.capBufLessOne.val + 1 }

/-- Free value (log 2): ENGINE_LATENCY of the k-th command started, a number of host steps. Finite, at least 0, free for
each command (R8, R141, X8). -/
opaque Config.engineLatency : Nat → Nat

/-- Free value (log 3): what the k-th read of RD_DATA or RD_LEN during BUSY returns, each read a draw of its own
(R82, R83, X3). -/
opaque Config.busyRead : Nat → Word

end Sys2Proof
end

