-- ==== Sys2Proof/Machine/State.lean ====
section
/-! DEFINITION. The state of the block (R19), what stands outside it, the reasons a step stops, and the state after reset. -/

namespace Sys2Proof.Machine

/-- The error codes of R120; 8 to 15 are never recorded (X16), so they have no constructor (log 14). -/
inductive ErrorCode
  | noError
  | invalidFrame
  | invalidParameter
  | dimensionMismatch
  | sequence
  | capacity
  | busyViolation
  | reservedOpcode
deriving DecidableEq, Repr

/-- The seven buffers, under the names of R21. -/
inductive BufferId
  | FRAME
  | RED
  | PAD
  | ILV
  | COR
  | REC
  | DEC
deriving DecidableEq, Repr

/-- A host access on the bus (R14, R55): its direction, the address less BASE_ADDR, its width in bits, and the value written
(a read's is ignored). Only 32-bit accesses of an aligned offset below 256 have a step (R42, R44). -/
structure Access where
  dir : Dir
  off : Nat
  width : Nat
  data : Word
deriving DecidableEq, Repr

/-- What comes to the block from outside: a host access, or the reset input (R18, R134). -/
inductive Input
  | access (a : Access)
  | reset
deriving DecidableEq, Repr

/-- The state. The first eighteen fields are the record of R19, in its order; `cfg` holds the parameters of R8, which no step
changes; the rest is the model's own: what stands outside the block and the plain data behind the free values (logs 2 to 5). -/
structure State where
  /-- N, the redundancy order (R20). -/
  n : Word
  /-- M, the word length (R20). -/
  m : Word
  /-- T, the depth (R20). -/
  t : Word
  /-- FRAME, always valid (R22). -/
  frame : Bits
  /-- RED; `none` is ⊥, invalid (R23). -/
  redBuf : Option Bits
  /-- PAD (R23). -/
  padBuf : Option Bits
  /-- ILV (R23). -/
  ilvBuf : Option Bits
  /-- COR (R23). -/
  corBuf : Option Bits
  /-- REC (R23). -/
  recBuf : Option Bits
  /-- DEC (R23). -/
  decBuf : Option Bits
  /-- MATCH (R27). -/
  matched : Bit
  /-- BYPASS (R28). -/
  bypass : Bit
  /-- ERR (R26). -/
  err : ErrorCode
  /-- BUSY (R30). -/
  busy : Bit
  /-- PEND_OP, the opcode the engine is to execute (R32). -/
  pendOp : BitVec 4
  /-- PEND_B, its B bit (R32). -/
  pendB : Bit
  /-- RD_SEL (R33). -/
  rdSel : BitVec 3
  /-- RD_IDX (R33). -/
  rdIdx : Word
  /-- The parameters (R8). -/
  cfg : Params
  /-- MODEL: what the outside will do, oldest first (log 4). -/
  inputs : List Input
  /-- MODEL: the value the host's last read returned, `none` before the first read (log 5). -/
  readData : Option Word
  /-- MODEL: host steps that may still pass before the running command completes (log 2). -/
  wait : Nat
  /-- MODEL: latencies fixed in advance for the next commands; when empty the latency is `Config.engineLatency` (log 2). -/
  latencies : List Nat
  /-- MODEL: commands started so far (log 2). -/
  started : Nat
  /-- MODEL: unconstrained reads so far (log 3). -/
  draws : Nat
deriving DecidableEq, Repr

/-- Whose step comes next (R18, R47). -/
inductive Turn
  | engine
  | input (i : Input) (rest : List Input)
  | idle
deriving DecidableEq, Repr

/-- Why the machine has no step. Each is a stuck case of the spec (R42, R44, X4, X5) or a state no run reaches (R118). -/
inductive Fault
  /-- A host access at an offset that is not a multiple of 4. Raised by the fetch of an access. Safe (R42, X4, log 6). -/
  | misalignedAccess
  /-- A host access that is not 32 bits wide. Raised by the fetch of an access. Safe (R44, X5, log 6). -/
  | accessWidth
  /-- A host access outside the 256-byte window. Raised by the fetch of an access. Safe (R42, log 6). -/
  | outsideWindow
  /-- The engine's turn with no engine command in the latch. Raised by the step. Safe: unreachable (R118, log 7). -/
  | noEngineCommand
deriving DecidableEq, Repr

/-- Why an instruction has no meaning here. -/
inductive Refusal
  /-- The instruction has no meaning yet. Raised by `exec` alone; safe. No arm raises it. -/
  | notModelled (mnemonic : String)
deriving DecidableEq, Repr

/-- The outcome of a step or of a meaning. -/
abbrev Result := Host.Outcome State Fault Refusal

/-- The machine right after reset: the table of R36 (R134), the parameters of the implementation, nothing asked of the
block yet (log 18). -/
def State.reset : State :=
  { n := 0, m := 0, t := 0
    frame := []
    redBuf := none, padBuf := none, ilvBuf := none, corBuf := none, recBuf := none, decBuf := none
    matched := false, bypass := false
    err := .noError
    busy := false, pendOp := 0, pendB := false
    rdSel := 0, rdIdx := 0
    cfg := Config.params
    inputs := [], readData := none
    wait := 0, latencies := [], started := 0, draws := 0 }

end Sys2Proof.Machine
end

