-- ==== Sys2Proof/Machine/Ops.lean ====
section
/-! DEFINITION. The named operations over the state: buffers and their invalidation (R37), recording an error (R15, R121), the
completion of a command (R118), the start of one (R70), what a read returns (R14), reset (R134), and whose step comes next (R47). -/

namespace Sys2Proof.Machine

/-! ### Buffers -/

/-- The content of a buffer, `none` where it is invalid; FRAME is always valid (R13, R22). -/
def State.buf (s : State) : BufferId → Option Bits
  | .FRAME => some s.frame
  | .RED => s.redBuf
  | .PAD => s.padBuf
  | .ILV => s.ilvBuf
  | .COR => s.corBuf
  | .REC => s.recBuf
  | .DEC => s.decBuf

/-- The buffer with a 3-bit id; id 7 is no buffer (R21). -/
def bufferOf (id : BitVec 3) : Option BufferId :=
  if id = 0#3 then some .FRAME
  else if id = 1#3 then some .RED
  else if id = 2#3 then some .PAD
  else if id = 3#3 then some .ILV
  else if id = 4#3 then some .COR
  else if id = 5#3 then some .REC
  else if id = 6#3 then some .DEC
  else none

/-- `buf(id)` of the host-interface rules, with `buf(7) = ⊥`. -/
def State.bufAt (s : State) (id : BitVec 3) : Option Bits :=
  match bufferOf id with
  | some x => s.buf x
  | none => none

/-- The buffers downstream of X (the table of R37). -/
def downstream : BufferId → List BufferId
  | .FRAME => [.RED, .PAD, .ILV, .COR, .REC, .DEC]
  | .RED => [.PAD, .ILV, .COR, .REC, .DEC]
  | .PAD => [.ILV, .COR, .REC, .DEC]
  | .ILV => [.COR, .REC, .DEC]
  | .COR => [.REC, .DEC]
  | .REC => [.DEC]
  | .DEC => []

/-- `invalidate_from(X)`: the buffers downstream of X become invalid, MATCH falls with DEC and BYPASS with REC (R37). -/
def State.invalidateFrom (s : State) (x : BufferId) : State :=
  { s with
    redBuf := if .RED ∈ downstream x then none else s.redBuf
    padBuf := if .PAD ∈ downstream x then none else s.padBuf
    ilvBuf := if .ILV ∈ downstream x then none else s.ilvBuf
    corBuf := if .COR ∈ downstream x then none else s.corBuf
    recBuf := if .REC ∈ downstream x then none else s.recBuf
    decBuf := if .DEC ∈ downstream x then none else s.decBuf
    matched := if .DEC ∈ downstream x then false else s.matched
    bypass := if .REC ∈ downstream x then false else s.bypass }

/-- The group size `G = M*T` (R17). -/
def State.groupSize (s : State) : Nat := s.m.toNat * s.t.toNat

/-- The parameter check of R124: N, M and T are all at least 1. -/
abbrev State.ParamsOk (s : State) : Prop := 1 ≤ s.n.toNat ∧ 1 ≤ s.m.toNat ∧ 1 ≤ s.t.toNat

/-! ### Errors: the block's exceptions -/

/-- `record_error(c)`: the first error stands (R121). This is all that taking an error does: no state is saved, no mode changes
and no control is transferred (R127); there is no return from one (R128). -/
def State.recordError (s : State) (c : ErrorCode) : State :=
  { s with err := if s.err = .noError then c else s.err }

/-- A host write the engine's work shuts out: BUSY_VIOLATION comes before everything and the write then has no other effect
(R70 to R73, R77, R125). -/
def State.guardBusy (s : State) (f : State → State) : State :=
  if s.busy then s.recordError .busyViolation else f s

/-- The end of an engine step: the command's results, or only its error, and BUSY cleared in either case (R15, R118). -/
def State.complete (s : State) (r : Except ErrorCode State) : State :=
  match r with
  | .ok s' => { s' with busy := false }
  | .error c => { s.recordError c with busy := false }

/-- `Exec_CLEAR`: the host's recovery from an error (R116, R128). -/
def State.clearAll (s : State) : State :=
  { s with
    frame := []
    redBuf := none, padBuf := none, ilvBuf := none, corBuf := none, recBuf := none, decBuf := none
    matched := false, bypass := false
    err := .noError }

/-! ### Starting a command -/

/-- The latency of the next command: the one fixed in advance, or the free value (R8, X8, log 2). -/
def State.nextLatency (s : State) : Nat :=
  match s.latencies with
  | l :: _ => l
  | [] => Config.engineLatency s.started

/-- The CMD write that starts a command: the latch is written and BUSY set (R30, R32, R70). -/
def State.startCommand (s : State) (op : BitVec 4) (b : Bool) : State :=
  { s with
    pendOp := op, pendB := b, busy := true
    wait := s.nextLatency, latencies := s.latencies.tail, started := s.started + 1 }

/-- An opcode the engine executes: ENCODE to RUN (R60). -/
def isEngineOp (op : BitVec 4) : Bool := decide (1 ≤ op.toNat ∧ op.toNat ≤ 7)

/-! ### Reads -/

/-- The host's read returns a value; the block does not change (R14, R45). -/
def State.returnRead (s : State) (v : Word) : State := { s with readData := some v }

/-- A read that returns any 32-bit value: a free value, a new one each time (R82, R83, X3, log 3). -/
def State.returnAny (s : State) : State :=
  { s with readData := some (Config.busyRead s.draws), draws := s.draws + 1 }

/-! ### Reset -/

/-- The reset input: every component of the record of R19 at the value of R36, the pending command discarded (R134, R135). What
stands outside the block goes on (log 10). -/
def State.takeReset (s : State) (rest : List Input) : State :=
  { State.reset with
    cfg := s.cfg, inputs := rest, readData := s.readData
    latencies := s.latencies, started := s.started, draws := s.draws }

/-! ### Whose step comes next, and fetching it -/

/-- The access that the host's bus access at an address makes to the block (R14, R38): its offset is the address less BASE_ADDR.
An access outside the 256 bytes of the window does not reach the block. -/
def busAccess (p : Params) (dir : Dir) (addr width : Nat) (v : Word) : Option Access :=
  if p.baseAddr ≤ addr ∧ addr < p.baseAddr + 256 then
    some { dir := dir, off := addr - p.baseAddr, width := width, data := v }
  else none

/-- The interleaving (R47): the engine completes the pending command when its latency has passed or the outside does nothing
more; otherwise the next input is taken; with neither, the block waits (R136, logs 2 and 11). -/
def State.turn (s : State) : Turn :=
  match s.inputs with
  | [] => if s.busy then .engine else .idle
  | i :: rest => if s.busy ∧ s.wait = 0 then .engine else .input i rest

/-- The host step takes its access off the inputs; one of the host steps that may pass is gone. -/
def State.accept (s : State) (rest : List Input) : State := { s with inputs := rest, wait := s.wait - 1 }

/-- The operation a host access stands for; an access that is misaligned, of another width or outside the window has no
step (R42, R44, X4, X5, log 6). -/
def fetchAccess (a : Access) : Except Fault Instr :=
  if a.width ≠ 32 then .error .accessWidth
  else if a.off ≥ 256 then .error .outsideWindow
  else
    match decode (.access (accessKey a.dir (BitVec.ofNat 8 a.off)) a.data) with
    | .ok i => .ok i
    | .error .misaligned => .error .misalignedAccess

/-- The command in the engine's latch (R32, R118). -/
def State.fetchEngine (s : State) : Option Instr :=
  if isEngineOp s.pendOp then some (commandOf s.pendOp s.pendB) else none

/-- Puts a host access where the next step fetches it: ahead of the other inputs, and the host's turn (log 4). -/
def State.placeAccess (s : State) (a : Access) : State :=
  { s with inputs := .access a :: s.inputs, wait := s.wait + 1 }

/-- Puts a command where the next step fetches it: an engine command in the latch, its turn come; another one as the CMD write
that executes it (R60, log 4). -/
def State.placeCommand (s : State) (w : Word) : State :=
  if isEngineOp (cmdOp w) then { s with pendOp := cmdOp w, pendB := cmdB w, busy := true, wait := 0 }
  else s.placeAccess { dir := .write, off := 0, width := 32, data := w }

/-- Puts an operation of the table where the next step fetches it. -/
def State.placeOperation (s : State) (o : Operation) : State :=
  match o with
  | .access key v => s.placeAccess { dir := keyDir key, off := (keyOff key).toNat, width := 32, data := v }
  | .command w => s.placeCommand w

end Sys2Proof.Machine
end

