-- ==== Sys2Proof/Machine/Operands.lean ====
section
/-! DEFINITION. The fields of the words the host writes and the words it reads (R57, R58, R63, R64, R66, R41). The fields OP and B
of a command word stand in Decode.lean. -/

namespace Sys2Proof.Machine

/-- SEL, bits 2:0 of a word written to RD_SEL; the other bits are dropped (R58). -/
def selField (v : Word) : BitVec 3 := v.extractLsb' 0 3

/-- RD_SEL as it reads: SEL in bits 2:0, the others 0 (R58, R79). -/
def selWord (sel : BitVec 3) : Word := sel.setWidth 32

/-- CHAR, bits 7:0 of a word written to FRAME_IN; the other bits are dropped (R63). -/
def charField (v : Word) : BitVec 8 := v.extractLsb' 0 8

/-- The bit a frame character stands for: 0x30 is 0 and 0x31 is 1; every other character is invalid (R63, log 13). -/
def charBit (c : BitVec 8) : Option Bit :=
  if c = 0x30#8 then some false
  else if c = 0x31#8 then some true
  else none

/-- The character of a bit, zero-extended: 0x30 or 0x31 (R64). -/
def bitWord (b : Bit) : Word := if b then 0x31#32 else 0x30#32

/-- What RD_DATA reads while BUSY = 0: the selected bit as a character, or 0 where there is none (R64, R82). -/
def dataWord (b : Option Bits) (idx : Nat) : Word :=
  match b with
  | none => 0
  | some x =>
    match x[idx]? with
    | some bit => bitWord bit
    | none => 0

/-- What RD_LEN reads while BUSY = 0: the buffer's length, 0 where it is invalid (R83). -/
def lenWord (b : Option Bits) : Word :=
  match b with
  | none => 0
  | some x => BitVec.ofNat 32 x.length

/-- Byte lane `k` of a word on a byte-lane bus: bits 8k+7:8k (R41). Unobservable, every access being whole (X17). -/
def lane (v : Word) (k : Nat) : BitVec 8 := v.extractLsb' (8 * k) 8

/-- The word carried by four byte lanes, lane 0 first (R41). -/
def ofLanes (l0 l1 l2 l3 : BitVec 8) : Word := l3 ++ l2 ++ l1 ++ l0

end Sys2Proof.Machine
end

