-- ==== Sys2Proof/Machine/Flags.lean ====
section
/-! DEFINITION. STATUS: its error field, its validity bits and the whole word (R26 to R31, R65, R86). -/

namespace Sys2Proof.Machine

/-- The 4-bit code of an error (R120). -/
def ErrorCode.code : ErrorCode → BitVec 4
  | .noError => 0
  | .invalidFrame => 1
  | .invalidParameter => 2
  | .dimensionMismatch => 3
  | .sequence => 4
  | .capacity => 5
  | .busyViolation => 6
  | .reservedOpcode => 7

/-- STATUS.VALID's bit of a buffer, read from its validity (R29). -/
def State.valid (s : State) (x : BufferId) : Bool := (s.buf x).isSome

/-- STATUS.VALID, bits 14:8 of STATUS, bit `id` the buffer with that id (R29, R65). -/
def State.validField (s : State) : BitVec 7 :=
  BitVec.ofBool (s.valid .DEC) ++ BitVec.ofBool (s.valid .REC) ++ BitVec.ofBool (s.valid .COR) ++
    BitVec.ofBool (s.valid .ILV) ++ BitVec.ofBool (s.valid .PAD) ++ BitVec.ofBool (s.valid .RED) ++
    BitVec.ofBool (s.valid .FRAME)

/-- STATUS as it reads (R65, R86): bits 31:15 and bit 3 are 0 (R31). -/
def State.statusWord (s : State) : Word :=
  0#17 ++ s.validField ++ s.err.code ++ 0#1 ++ BitVec.ofBool s.bypass ++ BitVec.ofBool s.matched ++
    BitVec.ofBool s.busy

/-- The exact-match comparison behind MATCH: every decoded bit equals the original (R27, R113). -/
def matchBit (d frame : Bits) : Bit := decide (d = frame)

end Sys2Proof.Machine
end

