-- ==== Sys2Proof/Machine/Stages.lean ====
section
/-! DEFINITION. The six stage commands (41 to 46). Each is `Exec_…` of its rule, a function that gives the state with the
command's results or the error it raises, and its execution as an engine step (R118). -/

namespace Sys2Proof.Machine

/-- `Exec_ENCODE` (R92). -/
def State.encodeStage (s : State) : Except ErrorCode State :=
  if ¬ s.ParamsOk then .error .invalidParameter
  else if s.frame.length * s.n.toNat > s.cfg.capBuf then .error .capacity
  else .ok (({ s with redBuf := some (Datapath.encode s.frame s.n.toNat) }).invalidateFrom .RED)

/-- ENCODE (R92). -/
def execEncode (s : State) : Result := .next (s.complete s.encodeStage)

/-- `Exec_PADSPLIT` (R96). -/
def State.padsplitStage (s : State) : Except ErrorCode State :=
  if ¬ s.ParamsOk then .error .invalidParameter
  else
    match s.redBuf with
    | none => .error .sequence
    | some r =>
      if Datapath.roundUp r.length s.groupSize > s.cfg.capBuf then .error .capacity
      else .ok (({ s with padBuf := some (Datapath.pad r s.groupSize) }).invalidateFrom .PAD)

/-- PADSPLIT (R96). -/
def execPadsplit (s : State) : Result := .next (s.complete s.padsplitStage)

/-- `Exec_INTERLEAVE` (R100): a length that is no multiple of M*T is an error, never truncated (R102). -/
def State.interleaveStage (s : State) : Except ErrorCode State :=
  if ¬ s.ParamsOk then .error .invalidParameter
  else
    match s.padBuf with
    | none => .error .sequence
    | some p =>
      if p.length % s.groupSize ≠ 0 then .error .dimensionMismatch
      else .ok (({ s with ilvBuf := some (Datapath.interleave p s.m.toNat s.t.toNat) }).invalidateFrom .ILV)

/-- INTERLEAVE (R100). -/
def execInterleave (s : State) : Result := .next (s.complete s.interleaveStage)

/-- `Exec_CORRUPT` (R105). -/
def State.corruptStage (s : State) : Except ErrorCode State :=
  if ¬ s.ParamsOk then .error .invalidParameter
  else
    match s.ilvBuf with
    | none => .error .sequence
    | some x =>
      if x.length % s.groupSize ≠ 0 then .error .dimensionMismatch
      else .ok (({ s with corBuf := some (Datapath.corrupt x s.groupSize) }).invalidateFrom .COR)

/-- CORRUPT (R105). -/
def execCorrupt (s : State) : Result := .next (s.complete s.corruptStage)

/-- `Exec_DEINTERLEAVE(b)` (R109): from COR where `b` = 0, from ILV where `b` = 1. -/
def State.deinterleaveStage (s : State) (b : Bool) : Except ErrorCode State :=
  if ¬ s.ParamsOk then .error .invalidParameter
  else
    match (if b then s.ilvBuf else s.corBuf) with
    | none => .error .sequence
    | some x =>
      if x.length % s.groupSize ≠ 0 then .error .dimensionMismatch
      else
        .ok { ({ s with recBuf := some (Datapath.deinterleave x s.m.toNat s.t.toNat) }).invalidateFrom .REC with
              bypass := b }

/-- DEINTERLEAVE, through the channel (R109, B = 0). -/
def execDeinterleave (s : State) : Result := .next (s.complete (s.deinterleaveStage false))

/-- DEINTERLEAVE.B, the channel skipped (R109, B = 1). -/
def execDeinterleaveB (s : State) : Result := .next (s.complete (s.deinterleaveStage true))

/-- `Exec_DECODE` (R113): majority vote, truncation to the frame's length, exact-match comparison. -/
def State.decodeStage (s : State) : Except ErrorCode State :=
  if ¬ s.ParamsOk then .error .invalidParameter
  else
    match s.recBuf with
    | none => .error .sequence
    | some q =>
      if q.length < s.frame.length * s.n.toNat then .error .dimensionMismatch
      else
        let d := Datapath.decode q s.n.toNat s.frame.length
        .ok (({ s with decBuf := some d, matched := matchBit d s.frame }).invalidateFrom .DEC)

/-- DECODE (R113). -/
def execDecode (s : State) : Result := .next (s.complete s.decodeStage)

end Sys2Proof.Machine
end

