-- ==== Sys2Proof/Machine/Control.lean ====
section
/-! DEFINITION. Pipeline control (47): RUN, CLEAR, NOP, the reserved opcodes (R62), and WR.CMD, which performs or starts a
command (R70). -/

namespace Sys2Proof.Machine

/-- `Exec_RUN(b)` (R115): every check first, then every buffer at once. -/
def State.runStage (s : State) (b : Bool) : Except ErrorCode State :=
  if ¬ s.ParamsOk then .error .invalidParameter
  else if s.frame.length * s.n.toNat > s.cfg.capBuf then .error .capacity
  else if Datapath.roundUp (s.frame.length * s.n.toNat) s.groupSize > s.cfg.capBuf then .error .capacity
  else
    let r := Datapath.encode s.frame s.n.toNat
    let p := Datapath.pad r s.groupSize
    let i := Datapath.interleave p s.m.toNat s.t.toNat
    let c := Datapath.corrupt i s.groupSize
    let x := if b then i else c
    let q := Datapath.deinterleave x s.m.toNat s.t.toNat
    let d := Datapath.decode q s.n.toNat s.frame.length
    .ok { s with
          redBuf := some r, padBuf := some p, ilvBuf := some i
          corBuf := if b then none else some c
          recBuf := some q, bypass := b
          decBuf := some d, matched := matchBit d s.frame }

/-- RUN, through the channel (R115, B = 0). -/
def execRun (s : State) : Result := .next (s.complete (s.runStage false))

/-- RUN.B, the channel skipped (R115, B = 1). -/
def execRunB (s : State) : Result := .next (s.complete (s.runStage true))

/-- NOP, performed at the CMD write (R117); during BUSY the write is a violation like every CMD write (R70). -/
def execNop (s : State) : Result := .next (s.guardBusy fun s => s)

/-- CLEAR, performed at the CMD write (R116); not executed during BUSY (R70). -/
def execClear (s : State) : Result := .next (s.guardBusy fun s => s.clearAll)

/-- The reserved opcode 9 (R62, R70). -/
def execReservedOp9 (s : State) : Result := .next (s.guardBusy fun s => s.recordError .reservedOpcode)

/-- The reserved opcodes A and B (R62, R70). -/
def execReservedOpAB (_op : BitVec 4) (s : State) : Result :=
  .next (s.guardBusy fun s => s.recordError .reservedOpcode)

/-- The reserved opcodes C to F (R62, R70). -/
def execReservedOpCF (_op : BitVec 4) (s : State) : Result :=
  .next (s.guardBusy fun s => s.recordError .reservedOpcode)

/-- A command word while BUSY = 0, in the order of R70: a reserved opcode is an error, NOP and CLEAR are performed even while
ERR ≠ 0, every other command is refused in silence while ERR ≠ 0 (R123) and else started. -/
def State.commandWrite (s : State) (op : BitVec 4) (b : Bool) : State :=
  if 0x9 ≤ op.toNat then s.recordError .reservedOpcode
  else if op = 0x0#4 then s
  else if op = 0x8#4 then s.clearAll
  else if s.err ≠ .noError then s
  else s.startCommand op b

/-- WR.CMD (R70). -/
def execWrCmd (v : Word) (s : State) : Result :=
  .next (s.guardBusy fun s => s.commandWrite (cmdOp v) (cmdB v))

end Sys2Proof.Machine
end

