-- ==== Sys2Proof/Machine/HostPort.lean ====
section
/-! DEFINITION. The host's register accesses (40_host_interface.md), but for WR.CMD, which stands with the commands. -/

namespace Sys2Proof.Machine

/-! ### Parameter registers -/

/-- WR.N (R71). -/
def execWrN (v : Word) (s : State) : Result :=
  .next (s.guardBusy fun s => ({ s with n := v }).invalidateFrom .FRAME)

/-- WR.M (R72). -/
def execWrM (v : Word) (s : State) : Result :=
  .next (s.guardBusy fun s => ({ s with m := v }).invalidateFrom .FRAME)

/-- WR.T (R73). -/
def execWrT (v : Word) (s : State) : Result :=
  .next (s.guardBusy fun s => ({ s with t := v }).invalidateFrom .FRAME)

/-- RD.N (R74). -/
def execRdN (s : State) : Result := .next (s.returnRead s.n)

/-- RD.M (R75). -/
def execRdM (s : State) : Result := .next (s.returnRead s.m)

/-- RD.T (R76). -/
def execRdT (s : State) : Result := .next (s.returnRead s.t)

/-! ### Frame input -/

/-- A character offered to FRAME while BUSY = 0 (R77): dropped while ERR ≠ 0, then checked, then appended if there is room. -/
def State.appendChar (s : State) (c : BitVec 8) : State :=
  if s.err ≠ .noError then s
  else
    match charBit c with
    | none => s.recordError .invalidFrame
    | some b =>
      if s.frame.length = s.cfg.capFrame then s.recordError .capacity
      else ({ s with frame := s.frame ++ [b] }).invalidateFrom .FRAME

/-- WR.FRAME_IN (R77). -/
def execWrFrameIn (v : Word) (s : State) : Result :=
  .next (s.guardBusy fun s => s.appendChar (charField v))

/-! ### Read port -/

/-- WR.RD_SEL: accepted at any time (R78). -/
def execWrRdSel (v : Word) (s : State) : Result := .next { s with rdSel := selField v }

/-- RD.RD_SEL (R79). -/
def execRdRdSel (s : State) : Result := .next (s.returnRead (selWord s.rdSel))

/-- WR.RD_IDX: accepted at any time (R80). -/
def execWrRdIdx (v : Word) (s : State) : Result := .next { s with rdIdx := v }

/-- RD.RD_IDX (R81). -/
def execRdRdIdx (s : State) : Result := .next (s.returnRead s.rdIdx)

/-- RD.RD_DATA: unconstrained while BUSY = 1 (R82). -/
def execRdRdData (s : State) : Result :=
  .next (if s.busy then s.returnAny else s.returnRead (dataWord (s.bufAt s.rdSel) s.rdIdx.toNat))

/-- RD.RD_LEN: unconstrained while BUSY = 1 (R83). -/
def execRdRdLen (s : State) : Result :=
  .next (if s.busy then s.returnAny else s.returnRead (lenWord (s.bufAt s.rdSel)))

/-- RD.CAP_FRAME (R84). -/
def execRdCapFrame (s : State) : Result := .next (s.returnRead (BitVec.ofNat 32 s.cfg.capFrame))

/-- RD.CAP_BUF (R85). -/
def execRdCapBuf (s : State) : Result := .next (s.returnRead (BitVec.ofNat 32 s.cfg.capBuf))

/-! ### Status -/

/-- RD.STATUS: exact at all times (R86). -/
def execRdStatus (s : State) : Result := .next (s.returnRead s.statusWord)

/-! ### Read-only registers, write-only ports and reserved offsets -/

/-- A write without effect, BUSY or not (R87, R89). -/
def State.ignoreWrite (s : State) (_v : Word) : State := s

/-- WR.STATUS (R87). -/
def execWrStatus (v : Word) (s : State) : Result := .next (s.ignoreWrite v)

/-- WR.RD_DATA (R87). -/
def execWrRdData (v : Word) (s : State) : Result := .next (s.ignoreWrite v)

/-- WR.RD_LEN (R87). -/
def execWrRdLen (v : Word) (s : State) : Result := .next (s.ignoreWrite v)

/-- WR.CAP_FRAME (R87). -/
def execWrCapFrame (v : Word) (s : State) : Result := .next (s.ignoreWrite v)

/-- WR.CAP_BUF (R87). -/
def execWrCapBuf (v : Word) (s : State) : Result := .next (s.ignoreWrite v)

/-- RD.CMD: 0 (R88). -/
def execRdCmd (s : State) : Result := .next (s.returnRead 0)

/-- RD.FRAME_IN: 0 (R88). -/
def execRdFrameIn (s : State) : Result := .next (s.returnRead 0)

/-- RD.RESERVED at 0x30 to 0x3C: 0 (R89). -/
def execRdReserved30 (_off : BitVec 8) (s : State) : Result := .next (s.returnRead 0)

/-- RD.RESERVED at 0x40 to 0x7C: 0 (R89). -/
def execRdReserved40 (_off : BitVec 8) (s : State) : Result := .next (s.returnRead 0)

/-- RD.RESERVED at 0x80 to 0xFC: 0 (R89). -/
def execRdReserved80 (_off : BitVec 8) (s : State) : Result := .next (s.returnRead 0)

/-- WR.RESERVED at 0x30 to 0x3C: no effect (R89). -/
def execWrReserved30 (_off : BitVec 8) (v : Word) (s : State) : Result := .next (s.ignoreWrite v)

/-- WR.RESERVED at 0x40 to 0x7C: no effect (R89). -/
def execWrReserved40 (_off : BitVec 8) (v : Word) (s : State) : Result := .next (s.ignoreWrite v)

/-- WR.RESERVED at 0x80 to 0xFC: no effect (R89). -/
def execWrReserved80 (_off : BitVec 8) (v : Word) (s : State) : Result := .next (s.ignoreWrite v)

end Sys2Proof.Machine
end

