-- ==== Sys2Proof/Machine/Dispatch.lean ====
section
/-! DEFINITION. The dispatch: one arm per constructor of Instr, each one call of its meaning. -/

namespace Sys2Proof.Machine

def exec (i : Instr) (s : State) : Host.Outcome State Fault Refusal :=
  match i with
  | .nop => Sys2Proof.Machine.execNop s
  | .encode => Sys2Proof.Machine.execEncode s
  | .padsplit => Sys2Proof.Machine.execPadsplit s
  | .interleave => Sys2Proof.Machine.execInterleave s
  | .corrupt => Sys2Proof.Machine.execCorrupt s
  | .deinterleave => Sys2Proof.Machine.execDeinterleave s
  | .deinterleaveB => Sys2Proof.Machine.execDeinterleaveB s
  | .decode => Sys2Proof.Machine.execDecode s
  | .run => Sys2Proof.Machine.execRun s
  | .runB => Sys2Proof.Machine.execRunB s
  | .clear => Sys2Proof.Machine.execClear s
  | .reservedOp9 => Sys2Proof.Machine.execReservedOp9 s
  | .reservedOpAB op => Sys2Proof.Machine.execReservedOpAB op s
  | .reservedOpCF op => Sys2Proof.Machine.execReservedOpCF op s
  | .wrCmd v => Sys2Proof.Machine.execWrCmd v s
  | .rdStatus => Sys2Proof.Machine.execRdStatus s
  | .wrN v => Sys2Proof.Machine.execWrN v s
  | .rdN => Sys2Proof.Machine.execRdN s
  | .wrM v => Sys2Proof.Machine.execWrM v s
  | .rdM => Sys2Proof.Machine.execRdM s
  | .wrT v => Sys2Proof.Machine.execWrT v s
  | .rdT => Sys2Proof.Machine.execRdT s
  | .wrFrameIn v => Sys2Proof.Machine.execWrFrameIn v s
  | .wrRdSel v => Sys2Proof.Machine.execWrRdSel v s
  | .rdRdSel => Sys2Proof.Machine.execRdRdSel s
  | .wrRdIdx v => Sys2Proof.Machine.execWrRdIdx v s
  | .rdRdIdx => Sys2Proof.Machine.execRdRdIdx s
  | .rdRdData => Sys2Proof.Machine.execRdRdData s
  | .rdRdLen => Sys2Proof.Machine.execRdRdLen s
  | .rdCapFrame => Sys2Proof.Machine.execRdCapFrame s
  | .rdCapBuf => Sys2Proof.Machine.execRdCapBuf s
  | .wrStatus v => Sys2Proof.Machine.execWrStatus v s
  | .wrRdData v => Sys2Proof.Machine.execWrRdData v s
  | .wrRdLen v => Sys2Proof.Machine.execWrRdLen v s
  | .wrCapFrame v => Sys2Proof.Machine.execWrCapFrame v s
  | .wrCapBuf v => Sys2Proof.Machine.execWrCapBuf v s
  | .rdCmd => Sys2Proof.Machine.execRdCmd s
  | .rdFrameIn => Sys2Proof.Machine.execRdFrameIn s
  | .rdReserved30 off => Sys2Proof.Machine.execRdReserved30 off s
  | .rdReserved40 off => Sys2Proof.Machine.execRdReserved40 off s
  | .rdReserved80 off => Sys2Proof.Machine.execRdReserved80 off s
  | .wrReserved30 off v => Sys2Proof.Machine.execWrReserved30 off v s
  | .wrReserved40 off v => Sys2Proof.Machine.execWrReserved40 off v s
  | .wrReserved80 off v => Sys2Proof.Machine.execWrReserved80 off v s

end Sys2Proof.Machine
end

