-- ==== Sys2Proof/Machine/Step.lean ====
section
/-! DEFINITION. One step of the machine: the engine's, the host's or the reset input's, whose turn it is (R18, R47, R134). -/

namespace Sys2Proof.Machine

/-- One step. The engine executes the command in its latch (R118); a host step executes one access (R18); the reset input
resets the block (R134); with nothing to do the block waits (R136, log 11). -/
def step (s : State) : Host.Outcome State Fault Refusal :=
  match s.turn with
  | .engine =>
    match s.fetchEngine with
    | some i => exec i s
    | none => .fault .noEngineCommand
  | .input .reset rest => .next (s.takeReset rest)
  | .input (.access a) rest =>
    match fetchAccess a with
    | .ok i => exec i (s.accept rest)
    | .error f => .fault f
  | .idle => .next s

/-- The state with an operation of the opcode table placed where the next step fetches it: an access or a command performed at
the CMD write as the next input, an engine command in the latch with its turn come (logs 4 and 9). -/
def State.withFetchWord (s : State) (nbits w : Nat) : State :=
  match tableOperation nbits w with
  | some o => s.placeOperation o
  | none => s

end Sys2Proof.Machine
end

