-- ==== Sys2Proof/Machine/Script.lean ====
section
/-! DEFINITION. The host-script notation of R68 and R69 as lists of inputs. Only `wr` and `rd` reach the block; what the host does
with the values it reads is the host's (log 19). -/

namespace Sys2Proof.Machine

/-- The register names of R56. -/
inductive RegName
  | CMD
  | STATUS
  | N
  | M
  | T
  | FRAME_IN
  | RD_SEL
  | RD_IDX
  | RD_DATA
  | RD_LEN
  | CAP_FRAME
  | CAP_BUF
deriving DecidableEq, Repr

/-- `off(REG)`, the offsets of R56. -/
def regOff : RegName → Nat
  | .CMD => 0x00
  | .STATUS => 0x04
  | .N => 0x08
  | .M => 0x0C
  | .T => 0x10
  | .FRAME_IN => 0x14
  | .RD_SEL => 0x18
  | .RD_IDX => 0x1C
  | .RD_DATA => 0x20
  | .RD_LEN => 0x24
  | .CAP_FRAME => 0x28
  | .CAP_BUF => 0x2C

/-- `wr REG, imm` (R68). -/
def wr (r : RegName) (imm : Word) : Input :=
  .access { dir := .write, off := regOff r, width := 32, data := imm }

/-- `rd REG` (R68). -/
def rd (r : RegName) : Input := .access { dir := .read, off := regOff r, width := 32, data := 0 }

/-- Whether `bnz v, mask, label` branches: a decision of the host, no access (R68). -/
def bnzTaken (v mask : Word) : Bool := v &&& mask != 0

/-- The buffer ids of R21. -/
def idOf : BufferId → BitVec 3
  | .FRAME => 0
  | .RED => 1
  | .PAD => 2
  | .ILV => 3
  | .COR => 4
  | .REC => 5
  | .DEC => 6

/-- `cmd OP` (R69). -/
def cmd (op : BitVec 4) : List Input := [wr .CMD (commandWord op false)]

/-- `cmd OP.B` (R69). -/
def cmdDotB (op : BitVec 4) : List Input := [wr .CMD (commandWord op true)]

/-- `load "s"`: the characters of the frame in order, each zero-extended (R40, R69). -/
def load (cs : List Char) : List Input := cs.map fun c => wr .FRAME_IN (BitVec.ofNat 32 c.toNat)

/-- `setup n, m, t` (R69). -/
def setup (n m t : Word) : List Input := [wr .N n, wr .M m, wr .T t]

/-- The accesses of a `wait` that polls STATUS `k` times (R69): how often it polls is the host's. -/
def waitPolls (k : Nat) : List Input := List.replicate k (rd .STATUS)

/-- The accesses of `dump BUF` on a buffer whose RD_LEN reads `k` (R69). -/
def dump (x : BufferId) (k : Nat) : List Input :=
  wr .RD_SEL (selWord (idOf x)) :: rd .RD_LEN ::
    (List.range k).flatMap fun i => [wr .RD_IDX (BitVec.ofNat 32 i), rd .RD_DATA]

end Sys2Proof.Machine
end

