-- ==== Sys2Proof/Safety.lean ====
section
/-! DEFINITION. The terms claims use: when a run has ended (R143), what a state a run reaches satisfies (R19, R25 to R28, R37),
and which inputs keep the block in its specification (R42, R44). -/

namespace Sys2Proof.Machine

/-- The block is quiescent exactly when BUSY = 0 (R143). -/
abbrev State.Quiescent (s : State) : Prop := s.busy = false

/-- The run has ended: the host issues nothing more and BUSY = 0 (R143). -/
abbrev State.RunEnded (s : State) : Prop := s.inputs = [] ∧ s.Quiescent

/-! ### What the buffers hold when they are valid -/

/-- What ENCODE makes of the present FRAME and N. -/
def State.expRed (s : State) : Bits := Datapath.encode s.frame s.n.toNat

/-- What PADSPLIT makes of it. -/
def State.expPad (s : State) : Bits := Datapath.pad s.expRed s.groupSize

/-- What INTERLEAVE makes of it. -/
def State.expIlv (s : State) : Bits := Datapath.interleave s.expPad s.m.toNat s.t.toNat

/-- What CORRUPT makes of it. -/
def State.expCor (s : State) : Bits := Datapath.corrupt s.expIlv s.groupSize

/-- What DEINTERLEAVE makes of it, the channel taken or skipped as BYPASS says (R28). -/
def State.expRec (s : State) : Bits :=
  Datapath.deinterleave (if s.bypass then s.expIlv else s.expCor) s.m.toNat s.t.toNat

/-- What DECODE makes of it. -/
def State.expDec (s : State) : Bits := Datapath.decode s.expRec s.n.toNat s.frame.length

/-- A buffer is invalid or holds the given sequence. -/
abbrev Holds (b : Option Bits) (x : Bits) : Prop := b = none ∨ b = some x

/-- The invariant of the block: the parameters are legal (R8), every buffer is within its capacity (R19), every valid buffer
holds what the pipeline makes of the present FRAME, N, M and T (R37), validity is a chain and valid buffers have checked
parameters (R25), MATCH and BYPASS say what R27 and R28 say, the latch of a busy engine holds one of its commands (R118),
and DIMENSION_MISMATCH has not been recorded (R126). -/
structure State.Coherent (s : State) : Prop where
  cfgLegal : s.cfg.Legal
  frameFits : s.frame.length ≤ s.cfg.capFrame
  redHolds : Holds s.redBuf s.expRed
  padHolds : Holds s.padBuf s.expPad
  ilvHolds : Holds s.ilvBuf s.expIlv
  corHolds : Holds s.corBuf s.expCor
  recHolds : Holds s.recBuf s.expRec
  decHolds : Holds s.decBuf s.expDec
  redParams : s.redBuf ≠ none → s.ParamsOk
  redFits : s.redBuf ≠ none → s.expRed.length ≤ s.cfg.capBuf
  padFits : s.padBuf ≠ none → s.expPad.length ≤ s.cfg.capBuf
  padRed : s.padBuf ≠ none → s.redBuf ≠ none
  ilvPad : s.ilvBuf ≠ none → s.padBuf ≠ none
  corIlv : s.corBuf ≠ none → s.ilvBuf ≠ none
  recIlv : s.recBuf ≠ none → s.ilvBuf ≠ none
  recCor : s.recBuf ≠ none → s.bypass = false → s.corBuf ≠ none
  decRec : s.decBuf ≠ none → s.recBuf ≠ none
  matchSays : s.matched = true ↔ s.decBuf = some s.frame
  bypassSays : s.recBuf = none → s.bypass = false
  latchLegal : s.busy = true → isEngineOp s.pendOp = true
  noMismatch : s.err ≠ .dimensionMismatch

/-! ### Inputs the block has a step for -/

/-- A host access within the specification: 32 bits, aligned, inside the window (R42, R44). -/
abbrev Access.Legal (a : Access) : Prop := a.width = 32 ∧ a.off < 256 ∧ a.off % 4 = 0

/-- An input within the specification. -/
def Input.Legal : Input → Prop
  | .access a => a.Legal
  | .reset => True

/-- A run's state from which every input has a step. -/
abbrev State.InputsLegal (s : State) : Prop := ∀ i ∈ s.inputs, i.Legal

/-! ### Outcomes and runs in the terms of the rules -/

/-- After an engine command that raised an error: ERR is the first error, BUSY is cleared, nothing else changes (R15, R118, R121,
R127). -/
def State.afterError (s : State) (c : ErrorCode) : State :=
  { s with err := if s.err = .noError then c else s.err, busy := false }

/-- After a host write shut out by BUSY: ERR is the first error, nothing else changes (R121, R125). -/
def State.afterViolation (s : State) : State :=
  { s with err := if s.err = .noError then .busyViolation else s.err }

/-- The host's next input writes CLEAR to CMD (R116). -/
def State.NextIsClear (s : State) : Prop :=
  ∃ v rest, s.inputs = .access { dir := .write, off := 0, width := 32, data := v } :: rest ∧ cmdOp v = 0x8#4

/-- The next input is the reset input (R134). -/
def State.NextIsReset (s : State) : Prop := ∃ rest, s.inputs = .reset :: rest

/-- Instructions executed one after the other, each on the state the one before it left (R119). -/
def execAll : List Instr → State → Host.Outcome State Fault Refusal
  | [], s => .next s
  | i :: is, s =>
    match exec i s with
    | .next s' => execAll is s'
    | .fault f => .fault f
    | .refused r => .refused r

/-- The number of indices in the window `[w*n, (w+1)*n)` where two sequences differ: `f_w` of R114. -/
def windowDiffs (q r : Bits) (n w : Nat) : Nat :=
  ((List.range n).filter fun k => q[w * n + k]? != r[w * n + k]?).length

end Sys2Proof.Machine
end

