-- ==== Sys2Proof/Certificates/Slice0/Obligations.lean ====
section
/-! DEFINITION. The statements about the machine that the provers settle. Each docstring names the rules it formalises. -/

open Sys2Proof Sys2Proof.Machine

/-! ## Encoding -/

/-- The encodings R60 lists, and one access of each direction, decode to the operations they stand for. -/
def Obligations.SpecWordsDecode : Prop :=
  decode (.command 0x00000000) = .ok .nop ∧ decode (.command 0x00000001) = .ok .encode ∧
  decode (.command 0x00000002) = .ok .padsplit ∧ decode (.command 0x00000003) = .ok .interleave ∧
  decode (.command 0x00000004) = .ok .corrupt ∧ decode (.command 0x00000005) = .ok .deinterleave ∧
  decode (.command 0x00000015) = .ok .deinterleaveB ∧ decode (.command 0x00000006) = .ok .decode ∧
  decode (.command 0x00000007) = .ok .run ∧ decode (.command 0x00000017) = .ok .runB ∧
  decode (.command 0x00000008) = .ok .clear ∧ decode (.access 0x108 3) = .ok (.wrN 3) ∧
  decode (.access 0x004 0) = .ok .rdStatus

/-- Decode and encode agree, for every well-formed operation of both kinds (R55, R56, R59, R60). -/
def Obligations.DecodeInvertsEncode : Prop :=
  ∀ i : Instr, i.WellFormed = true → decode (encode i) = .ok i

/-- Every aligned access is exactly one operation, which encodes back to it (a read's data is no part of it); a misaligned one
is none (R42, R55, R56, R67). -/
def Obligations.EveryAlignedAccessIsOneOperation : Prop :=
  ∀ (dir : Dir) (off : BitVec 8) (v : Word),
    (off.toNat % 4 = 0 →
      ∃ i, decodeAccess dir off v = .ok i ∧ i.WellFormed = true ∧
        encode i = .access (accessKey dir off) (match dir with | .read => 0 | .write => v)) ∧
    (off.toNat % 4 ≠ 0 → decodeAccess dir off v = .error .misaligned)

/-- Every command word is exactly one command: its encoding has the word's OP, its B where B matters, and ignored bits 0; and the
ignored bits change nothing (R59 to R61, R67). -/
def Obligations.EveryCommandWordIsOneCommand : Prop :=
  ∀ w : Word,
    (decodeCommand w).WellFormed = true ∧
    (∃ u : Word, encode (decodeCommand w) = .command u ∧ u.extractLsb' 0 4 = w.extractLsb' 0 4 ∧
      (w.extractLsb' 0 4 = 0x5#4 ∨ w.extractLsb' 0 4 = 0x7#4 → u.getLsbD 4 = w.getLsbD 4) ∧
      u.extractLsb' 5 27 = 0#27) ∧
    (∀ u : Word, u.extractLsb' 0 5 = w.extractLsb' 0 5 → decodeCommand u = decodeCommand w) ∧
    (∀ u : Word, u.extractLsb' 0 4 = w.extractLsb' 0 4 → w.extractLsb' 0 4 ≠ 0x5#4 → w.extractLsb' 0 4 ≠ 0x7#4 →
      decodeCommand u = decodeCommand w)

/-! ## The step -/

/-- A step of the host runs the operation its access decodes to, on the state with that access taken off the inputs and one
fewer host step to pass; a step of the engine runs the command in its latch on the state as it is (R18, R47, R118; the fields
`inputs` and `wait` are the model's, logs 2 and 4). -/
def Obligations.StepRunsDecodedOperation : Prop :=
  (∀ (s : State) (a : Access) (rest : List Input) (i : Instr),
    s.inputs = .access a :: rest → ¬ (s.busy = true ∧ s.wait = 0) → a.width = 32 → a.off < 256 →
    decode (.access (accessKey a.dir (BitVec.ofNat 8 a.off)) a.data) = .ok i →
    step s = exec i { s with inputs := rest, wait := s.wait - 1 }) ∧
  (∀ s : State,
    s.busy = true → (s.inputs = [] ∨ s.wait = 0) → 1 ≤ s.pendOp.toNat → s.pendOp.toNat ≤ 7 →
    step s = exec (commandOf s.pendOp s.pendB) s)

/-- An access of another width, outside the window or misaligned has no step (R42, R44); the names of the stops and their order are
the model's choice, log 6. -/
def Obligations.IllegalAccessIsStuck : Prop :=
  ∀ (s : State) (a : Access) (rest : List Input),
    s.inputs = .access a :: rest → ¬ (s.busy = true ∧ s.wait = 0) →
    (a.width ≠ 32 → step s = .fault .accessWidth) ∧
    (a.width = 32 → 256 ≤ a.off → step s = .fault .outsideWindow) ∧
    (a.width = 32 → a.off < 256 → a.off % 4 ≠ 0 → step s = .fault .misalignedAccess)

/-- Reset (R36): every component of the record has the value of the table, STATUS reads 0x00000100, and RD_DATA and RD_LEN
read 0 (R56). -/
def Obligations.ResetValues : Prop :=
  let s := State.reset
  s.n = 0 ∧ s.m = 0 ∧ s.t = 0 ∧ s.frame = [] ∧
  s.redBuf = none ∧ s.padBuf = none ∧ s.ilvBuf = none ∧ s.corBuf = none ∧ s.recBuf = none ∧ s.decBuf = none ∧
  s.matched = false ∧ s.bypass = false ∧ s.err = .noError ∧ s.busy = false ∧ s.pendOp = 0 ∧ s.pendB = false ∧
  s.rdSel = 0 ∧ s.rdIdx = 0 ∧
  exec .rdStatus s = .next { s with readData := some 0x00000100 } ∧
  exec .rdRdData s = .next { s with readData := some 0 } ∧
  exec .rdRdLen s = .next { s with readData := some 0 }

/-- The reset input puts every component at its reset value, whatever ran before: a pending command is discarded (R134, R135).
What stands outside the block stays (the model's choice, log 10). -/
def Obligations.ResetInputResetsBlock : Prop :=
  ∀ (s : State) (rest : List Input), s.inputs = .reset :: rest → ¬ (s.busy = true ∧ s.wait = 0) →
    step s = .next { State.reset with
      cfg := s.cfg, inputs := rest, readData := s.readData, latencies := s.latencies, started := s.started, draws := s.draws }

/-- With BUSY = 0 and no input the block waits: nothing changes (R136; that waiting is a step is the model's choice, log 11). -/
def Obligations.IdleBlockWaits : Prop :=
  ∀ s : State, s.RunEnded → step s = .next s

/-! ## Register accesses -/

/-- WR.N, WR.M and WR.T (R71 to R73): with BUSY = 0 the register takes the value, every derived buffer becomes invalid, MATCH and
BYPASS fall (R37), even where the value is the old one or 0, and while ERR ≠ 0; with BUSY = 1 only the violation is recorded. -/
def Obligations.ParameterWritesInvalidate : Prop :=
  ∀ (s : State) (v : Word),
    (decode (.access 0x108 v) = .ok (.wrN v) ∧ decode (.access 0x10C v) = .ok (.wrM v) ∧
      decode (.access 0x110 v) = .ok (.wrT v)) ∧
    (s.busy = true →
      exec (.wrN v) s = .next s.afterViolation ∧ exec (.wrM v) s = .next s.afterViolation ∧
      exec (.wrT v) s = .next s.afterViolation) ∧
    (s.busy = false →
      exec (.wrN v) s = .next { s with
        n := v, redBuf := none, padBuf := none, ilvBuf := none, corBuf := none, recBuf := none, decBuf := none,
        matched := false, bypass := false } ∧
      exec (.wrM v) s = .next { s with
        m := v, redBuf := none, padBuf := none, ilvBuf := none, corBuf := none, recBuf := none, decBuf := none,
        matched := false, bypass := false } ∧
      exec (.wrT v) s = .next { s with
        t := v, redBuf := none, padBuf := none, ilvBuf := none, corBuf := none, recBuf := none, decBuf := none,
        matched := false, bypass := false })

/-- A write of CMD, N, M, T or FRAME_IN, whatever its value, while BUSY = 1 records BUSY_VIOLATION, if no error stands, and does
nothing else (R70 to R73, R77, R125). The same of NOP, CLEAR and the reserved opcodes is the model's reading (log 8): the spec raises
the violation at their CMD write (R70, R122), and the model has that write's BUSY check inside their constructors. -/
def Obligations.BusyViolation : Prop :=
  ∀ (s : State) (v : Word) (op : BitVec 4), s.busy = true →
    ∀ i ∈ [Instr.wrCmd v, .wrN v, .wrM v, .wrT v, .wrFrameIn v, .nop, .clear, .reservedOp9, .reservedOpAB op,
        .reservedOpCF op],
      exec i s = .next s.afterViolation

/-- WR.FRAME_IN (R77): with BUSY = 1 only the violation is recorded; with BUSY = 0 it is dropped while ERR ≠ 0; a character other
than '0' and '1' records INVALID_FRAME; a full FRAME records CAPACITY; else the bit is appended and every derived buffer becomes
invalid. Bits 31:8 have no effect. -/
def Obligations.FrameInAppends : Prop :=
  ∀ (s : State) (v : Word),
    decode (.access 0x114 v) = .ok (.wrFrameIn v) ∧
    (s.busy = true → exec (.wrFrameIn v) s = .next s.afterViolation) ∧
    (s.busy = false → s.err ≠ .noError → exec (.wrFrameIn v) s = .next s) ∧
    (s.busy = false → s.err = .noError → v.extractLsb' 0 8 ≠ 0x30#8 → v.extractLsb' 0 8 ≠ 0x31#8 →
      exec (.wrFrameIn v) s = .next { s with err := .invalidFrame }) ∧
    (∀ b : Bit, s.busy = false → s.err = .noError → v.extractLsb' 0 8 = (if b then 0x31#8 else 0x30#8) →
      (s.frame.length = s.cfg.capFrame → exec (.wrFrameIn v) s = .next { s with err := .capacity }) ∧
      (s.frame.length ≠ s.cfg.capFrame →
        exec (.wrFrameIn v) s = .next { s with
          frame := s.frame ++ [b]
          redBuf := none, padBuf := none, ilvBuf := none, corBuf := none, recBuf := none, decBuf := none,
          matched := false, bypass := false }))

/-- WR.RD_SEL and WR.RD_IDX: accepted at any time, and they change only themselves (R45, R78, R80). -/
def Obligations.ReadPortWrites : Prop :=
  ∀ (s : State) (v : Word),
    decode (.access 0x118 v) = .ok (.wrRdSel v) ∧ decode (.access 0x11C v) = .ok (.wrRdIdx v) ∧
    exec (.wrRdSel v) s = .next { s with rdSel := v.extractLsb' 0 3 } ∧
    exec (.wrRdIdx v) s = .next { s with rdIdx := v }

/-- RD.N, RD.M, RD.T, RD.RD_SEL and RD.RD_IDX: the register, exact at any time, and nothing else changes (R74 to R76, R79, R81). -/
def Obligations.RegisterReads : Prop :=
  ∀ s : State,
    (decode (.access 0x008 0) = .ok .rdN ∧ decode (.access 0x00C 0) = .ok .rdM ∧ decode (.access 0x010 0) = .ok .rdT ∧
      decode (.access 0x018 0) = .ok .rdRdSel ∧ decode (.access 0x01C 0) = .ok .rdRdIdx) ∧
    exec .rdN s = .next { s with readData := some s.n } ∧
    exec .rdM s = .next { s with readData := some s.m } ∧
    exec .rdT s = .next { s with readData := some s.t } ∧
    exec .rdRdSel s = .next { s with readData := some (BitVec.ofNat 32 s.rdSel.toNat) } ∧
    exec .rdRdIdx s = .next { s with readData := some s.rdIdx }

/-- RD_SEL selects by the ids of R21, id 7 no buffer. (R, 0x20) is RD.RD_DATA (R82): with BUSY = 0 the selected bit as 0x30 or 0x31, or 0 where
the buffer is invalid, RD_SEL is 7 or the index is out of range; with BUSY = 1 some value, of which nothing is said (log 3). -/
def Obligations.DataRead : Prop :=
  ∀ s : State,
    decode (.access 0x020 0) = .ok .rdRdData ∧
    (s.bufAt 0 = some s.frame ∧ s.bufAt 1 = s.redBuf ∧ s.bufAt 2 = s.padBuf ∧ s.bufAt 3 = s.ilvBuf ∧
      s.bufAt 4 = s.corBuf ∧ s.bufAt 5 = s.recBuf ∧ s.bufAt 6 = s.decBuf ∧ s.bufAt 7 = none) ∧
    (s.busy = false → s.bufAt s.rdSel = none → exec .rdRdData s = .next { s with readData := some 0 }) ∧
    (∀ x, s.busy = false → s.bufAt s.rdSel = some x → x.length ≤ s.rdIdx.toNat →
      exec .rdRdData s = .next { s with readData := some 0 }) ∧
    (∀ x b, s.busy = false → s.bufAt s.rdSel = some x → x[s.rdIdx.toNat]? = some b →
      exec .rdRdData s = .next { s with readData := some (if b then 0x31 else 0x30) }) ∧
    (s.busy = true → ∃ v, exec .rdRdData s = .next { s with readData := some v, draws := s.draws + 1 })

/-- (R, 0x24) is RD.RD_LEN (R83): with BUSY = 0 the length of the selected buffer, 0 where it is invalid; with BUSY = 1 some value (log 3). -/
def Obligations.LengthRead : Prop :=
  ∀ s : State,
    decode (.access 0x024 0) = .ok .rdRdLen ∧
    (s.busy = false → s.bufAt s.rdSel = none → exec .rdRdLen s = .next { s with readData := some 0 }) ∧
    (∀ x, s.busy = false → s.bufAt s.rdSel = some x → x.length < 2 ^ 32 →
      ∃ v : Word, v.toNat = x.length ∧ exec .rdRdLen s = .next { s with readData := some v }) ∧
    (s.busy = true → ∃ v, exec .rdRdLen s = .next { s with readData := some v, draws := s.draws + 1 })

/-- RD.CAP_FRAME and RD.CAP_BUF: the parameters, exact at any time (R84, R85). -/
def Obligations.CapacityReads : Prop :=
  ∀ s : State, s.cfg.Legal →
    (decode (.access 0x028 0) = .ok .rdCapFrame ∧ decode (.access 0x02C 0) = .ok .rdCapBuf) ∧
    (∃ v : Word, v.toNat = s.cfg.capFrame ∧ exec .rdCapFrame s = .next { s with readData := some v }) ∧
    (∃ v : Word, v.toNat = s.cfg.capBuf ∧ exec .rdCapBuf s = .next { s with readData := some v })

/-- RD.STATUS (R65, R86): every bit of the word, at any time; the error codes are those of R120. -/
def Obligations.StatusRead : Prop :=
  ∀ s : State, ∃ v : Word,
    decode (.access 0x004 0) = .ok .rdStatus ∧
    exec .rdStatus s = .next { s with readData := some v } ∧
    v.getLsbD 0 = s.busy ∧ v.getLsbD 1 = s.matched ∧ v.getLsbD 2 = s.bypass ∧ v.getLsbD 3 = false ∧
    (v.extractLsb' 4 4).toNat =
      (match s.err with
        | .noError => 0 | .invalidFrame => 1 | .invalidParameter => 2 | .dimensionMismatch => 3
        | .sequence => 4 | .capacity => 5 | .busyViolation => 6 | .reservedOpcode => 7) ∧
    v.getLsbD 8 = true ∧ v.getLsbD 9 = s.redBuf.isSome ∧ v.getLsbD 10 = s.padBuf.isSome ∧
    v.getLsbD 11 = s.ilvBuf.isSome ∧ v.getLsbD 12 = s.corBuf.isSome ∧ v.getLsbD 13 = s.recBuf.isSome ∧
    v.getLsbD 14 = s.decBuf.isSome ∧ ∀ k, 15 ≤ k → v.getLsbD k = false

/-- A write of a read-only register or of a reserved offset has no effect, even while BUSY = 1 (R87, R89). -/
def Obligations.IgnoredWrites : Prop :=
  ∀ (s : State) (v : Word) (off : BitVec 8),
    (decode (.access 0x104 v) = .ok (.wrStatus v) ∧ decode (.access 0x120 v) = .ok (.wrRdData v) ∧
      decode (.access 0x124 v) = .ok (.wrRdLen v) ∧ decode (.access 0x128 v) = .ok (.wrCapFrame v) ∧
      decode (.access 0x12C v) = .ok (.wrCapBuf v)) ∧
    ∀ i ∈ [Instr.wrStatus v, .wrRdData v, .wrRdLen v, .wrCapFrame v, .wrCapBuf v, .wrReserved30 off v,
        .wrReserved40 off v, .wrReserved80 off v],
      exec i s = .next s

/-- A read of a write-only port or of a reserved offset returns 0 and changes nothing (R88, R89). -/
def Obligations.ZeroReads : Prop :=
  ∀ (s : State) (off : BitVec 8),
    (decode (.access 0x000 0) = .ok .rdCmd ∧ decode (.access 0x014 0) = .ok .rdFrameIn) ∧
    ∀ i ∈ [Instr.rdCmd, .rdFrameIn, .rdReserved30 off, .rdReserved40 off, .rdReserved80 off],
      exec i s = .next { s with readData := some 0 }

/-- Every byte lane of a word carries its eight bits, and the four lanes are the word (R41). -/
def Obligations.LanesAreLittleEndian : Prop :=
  (∀ v : Word, ofLanes (lane v 0) (lane v 1) (lane v 2) (lane v 3) = v) ∧
  (∀ (v : Word) (k j : Nat), k < 4 → j < 8 → (lane v k).getLsbD j = v.getLsbD (8 * k + j))

/-! ## Commands at the CMD write -/

/-- WR.CMD, in the order of R70: with BUSY = 1 a violation; else a reserved OP is an error, NOP does nothing, CLEAR clears, and a
stage command or RUN is refused in silence while ERR ≠ 0 and else latched with BUSY set (`wait`, `latencies` and `started` are the
model's, log 2). -/
def Obligations.CommandWriteStarts : Prop :=
  ∀ (s : State) (v : Word),
    decode (.access 0x100 v) = .ok (.wrCmd v) ∧
    (s.busy = true → exec (.wrCmd v) s = .next s.afterViolation) ∧
    (s.busy = false → 9 ≤ (v.extractLsb' 0 4).toNat →
      exec (.wrCmd v) s = .next { s with err := if s.err = .noError then .reservedOpcode else s.err }) ∧
    (s.busy = false → (v.extractLsb' 0 4).toNat = 0 → exec (.wrCmd v) s = .next s) ∧
    (s.busy = false → (v.extractLsb' 0 4).toNat = 8 → exec (.wrCmd v) s = exec .clear s) ∧
    (s.busy = false → 1 ≤ (v.extractLsb' 0 4).toNat → (v.extractLsb' 0 4).toNat ≤ 7 → s.err ≠ .noError →
      exec (.wrCmd v) s = .next s) ∧
    (s.busy = false → 1 ≤ (v.extractLsb' 0 4).toNat → (v.extractLsb' 0 4).toNat ≤ 7 → s.err = .noError →
      ∃ l, exec (.wrCmd v) s = .next { s with
        pendOp := v.extractLsb' 0 4, pendB := v.getLsbD 4, busy := true,
        wait := l, latencies := s.latencies.tail, started := s.started + 1 })

/-- NOP, CLEAR and the reserved opcodes: with BUSY = 0 NOP changes nothing (R117), CLEAR empties FRAME, invalidates every result and
clears MATCH, BYPASS and ERR and nothing else (R116), a reserved opcode records RESERVED_OPCODE if no error stands (R62, R70). That
executing one with BUSY = 1 is a violation is the model's reading (log 8): the spec raises it at their CMD write (R70). -/
def Obligations.ImmediateCommands : Prop :=
  (∀ w : Word, (w.extractLsb' 0 4 = 0x0#4 → decodeCommand w = .nop) ∧ (w.extractLsb' 0 4 = 0x8#4 → decodeCommand w = .clear)) ∧
  ∀ (s : State) (op : BitVec 4),
    (s.busy = true →
      exec .nop s = .next s.afterViolation ∧ exec .clear s = .next s.afterViolation ∧
      exec .reservedOp9 s = .next s.afterViolation ∧ exec (.reservedOpAB op) s = .next s.afterViolation ∧
      exec (.reservedOpCF op) s = .next s.afterViolation) ∧
    (s.busy = false →
      exec .nop s = .next s ∧
      exec .clear s = .next { s with
        frame := [], redBuf := none, padBuf := none, ilvBuf := none, corBuf := none, recBuf := none, decBuf := none,
        matched := false, bypass := false, err := .noError } ∧
      exec .reservedOp9 s = .next { s with err := if s.err = .noError then .reservedOpcode else s.err } ∧
      exec (.reservedOpAB op) s = .next { s with err := if s.err = .noError then .reservedOpcode else s.err } ∧
      exec (.reservedOpCF op) s = .next { s with err := if s.err = .noError then .reservedOpcode else s.err })

/-- A CMD write whose command does not run on the engine is that command's constructor executed: with BUSY = 0 the write performs
the command (R60, R70); with BUSY = 1 the spec performs none, and the equality is the model's reading, the write's BUSY check standing
inside the constructor (log 8). -/
def Obligations.CommandWritePerformsImmediate : Prop :=
  ∀ (s : State) (v : Word), ((v.extractLsb' 0 4).toNat = 0 ∨ 8 ≤ (v.extractLsb' 0 4).toNat) →
    exec (.wrCmd v) s = exec (decodeCommand v) s

/-! ## The stage commands: results and errors -/

/-- ENCODE (R91, R92): RED holds each bit of FRAME N times in order, everything downstream is invalid; a zero parameter and a
result over CAP_BUF are errors that change nothing else. -/
def Obligations.EncodeCommand : Prop :=
  (∀ w : Word, w.extractLsb' 0 4 = 0x1#4 → decodeCommand w = .encode) ∧
  ∀ s : State,
    (¬ s.ParamsOk → exec .encode s = .next (s.afterError .invalidParameter)) ∧
    (s.ParamsOk → s.cfg.capBuf < s.frame.length * s.n.toNat → exec .encode s = .next (s.afterError .capacity)) ∧
    (s.ParamsOk → s.frame.length * s.n.toNat ≤ s.cfg.capBuf →
      ∃ r : Bits, r.length = s.frame.length * s.n.toNat ∧
        (∀ i, i < s.frame.length * s.n.toNat → r[i]? = s.frame[i / s.n.toNat]?) ∧
        exec .encode s = .next { s with
          redBuf := some r, padBuf := none, ilvBuf := none, corBuf := none, recBuf := none, decBuf := none,
          matched := false, bypass := false, busy := false })

/-- PADSPLIT (R94, R96): PAD is RED with 0 bits appended up to P, the least multiple of G = M*T that is at least RED's length;
errors in their order. -/
def Obligations.PadsplitCommand : Prop :=
  (∀ w : Word, w.extractLsb' 0 4 = 0x2#4 → decodeCommand w = .padsplit) ∧
  ∀ s : State,
    (¬ s.ParamsOk → exec .padsplit s = .next (s.afterError .invalidParameter)) ∧
    (s.ParamsOk → s.redBuf = none → exec .padsplit s = .next (s.afterError .sequence)) ∧
    (∀ (r : Bits) (P : Nat), s.ParamsOk → s.redBuf = some r →
      (s.m.toNat * s.t.toNat) ∣ P → r.length ≤ P → P < r.length + s.m.toNat * s.t.toNat →
      (s.cfg.capBuf < P → exec .padsplit s = .next (s.afterError .capacity)) ∧
      (P ≤ s.cfg.capBuf →
        exec .padsplit s = .next { s with
          padBuf := some (r ++ List.replicate (P - r.length) false), ilvBuf := none, corBuf := none, recBuf := none,
          decBuf := none, matched := false, bypass := false, busy := false }))

/-- INTERLEAVE (R98 to R100, R102): ILV has PAD's length, and in every group the bit at j*T + k is PAD's at k*M + j; a length that is no
multiple of M*T is an error, never truncated. -/
def Obligations.InterleaveCommand : Prop :=
  (∀ w : Word, w.extractLsb' 0 4 = 0x3#4 → decodeCommand w = .interleave) ∧
  ∀ s : State,
    (¬ s.ParamsOk → exec .interleave s = .next (s.afterError .invalidParameter)) ∧
    (s.ParamsOk → s.padBuf = none → exec .interleave s = .next (s.afterError .sequence)) ∧
    (∀ p : Bits, s.ParamsOk → s.padBuf = some p → p.length % (s.m.toNat * s.t.toNat) ≠ 0 →
      exec .interleave s = .next (s.afterError .dimensionMismatch)) ∧
    (∀ p : Bits, s.ParamsOk → s.padBuf = some p → p.length % (s.m.toNat * s.t.toNat) = 0 →
      ∃ y : Bits, y.length = p.length ∧
        (∀ g j k, j < s.m.toNat → k < s.t.toNat → (g + 1) * (s.m.toNat * s.t.toNat) ≤ p.length →
          y[g * (s.m.toNat * s.t.toNat) + j * s.t.toNat + k]? = p[g * (s.m.toNat * s.t.toNat) + k * s.m.toNat + j]?) ∧
        exec .interleave s = .next { s with
          ilvBuf := some y, corBuf := none, recBuf := none, decBuf := none, matched := false, bypass := false,
          busy := false })

/-- CORRUPT (R103 to R105): COR is ILV with the bits at group-relative indices 1 and 2 flipped; errors in their order. -/
def Obligations.CorruptCommand : Prop :=
  (∀ w : Word, w.extractLsb' 0 4 = 0x4#4 → decodeCommand w = .corrupt) ∧
  ∀ s : State,
    (¬ s.ParamsOk → exec .corrupt s = .next (s.afterError .invalidParameter)) ∧
    (s.ParamsOk → s.ilvBuf = none → exec .corrupt s = .next (s.afterError .sequence)) ∧
    (∀ x : Bits, s.ParamsOk → s.ilvBuf = some x → x.length % (s.m.toNat * s.t.toNat) ≠ 0 →
      exec .corrupt s = .next (s.afterError .dimensionMismatch)) ∧
    (∀ x : Bits, s.ParamsOk → s.ilvBuf = some x → x.length % (s.m.toNat * s.t.toNat) = 0 →
      ∃ y : Bits, y.length = x.length ∧
        (∀ i, i < x.length →
          y[i]? = if i % (s.m.toNat * s.t.toNat) = 1 ∨ i % (s.m.toNat * s.t.toNat) = 2 then x[i]?.map (!·) else x[i]?) ∧
        exec .corrupt s = .next { s with
          corBuf := some y, recBuf := none, decBuf := none, matched := false, bypass := false, busy := false })

/-- DEINTERLEAVE and DEINTERLEAVE.B (R107 to R109): REC has the length of its source, COR for B = 0 and ILV for B = 1, and in
every group the bit at i*M + c is the source's at c*T + i; BYPASS is B; errors in their order. -/
def Obligations.DeinterleaveCommand : Prop :=
  (∀ w : Word, w.extractLsb' 0 4 = 0x5#4 →
    decodeCommand w = if w.getLsbD 4 then .deinterleaveB else .deinterleave) ∧
  ∀ (s : State) (b : Bool) (i : Instr) (src : Option Bits),
    i = (if b then .deinterleaveB else .deinterleave) → src = (if b then s.ilvBuf else s.corBuf) →
    (¬ s.ParamsOk → exec i s = .next (s.afterError .invalidParameter)) ∧
    (s.ParamsOk → src = none → exec i s = .next (s.afterError .sequence)) ∧
    (∀ x : Bits, s.ParamsOk → src = some x → x.length % (s.m.toNat * s.t.toNat) ≠ 0 →
      exec i s = .next (s.afterError .dimensionMismatch)) ∧
    (∀ x : Bits, s.ParamsOk → src = some x → x.length % (s.m.toNat * s.t.toNat) = 0 →
      ∃ y : Bits, y.length = x.length ∧
        (∀ g r c, r < s.t.toNat → c < s.m.toNat → (g + 1) * (s.m.toNat * s.t.toNat) ≤ x.length →
          y[g * (s.m.toNat * s.t.toNat) + r * s.m.toNat + c]? = x[g * (s.m.toNat * s.t.toNat) + c * s.t.toNat + r]?) ∧
        exec i s = .next { s with
          recBuf := some y, decBuf := none, matched := false, bypass := b, busy := false })

/-- DECODE (R112, R113): DEC has FRAME's length, its bit w is 1 exactly when the 1s of window w of REC outnumber its 0s, and MATCH
says whether DEC equals FRAME; errors in their order. -/
def Obligations.DecodeCommand : Prop :=
  (∀ w : Word, w.extractLsb' 0 4 = 0x6#4 → decodeCommand w = .decode) ∧
  ∀ s : State,
    (¬ s.ParamsOk → exec .decode s = .next (s.afterError .invalidParameter)) ∧
    (s.ParamsOk → s.recBuf = none → exec .decode s = .next (s.afterError .sequence)) ∧
    (∀ q : Bits, s.ParamsOk → s.recBuf = some q → q.length < s.frame.length * s.n.toNat →
      exec .decode s = .next (s.afterError .dimensionMismatch)) ∧
    (∀ q : Bits, s.ParamsOk → s.recBuf = some q → s.frame.length * s.n.toNat ≤ q.length →
      ∃ d : Bits, d.length = s.frame.length ∧
        (∀ w, w < s.frame.length →
          d[w]? = some (decide (((q.drop (w * s.n.toNat)).take s.n.toNat).count false <
            ((q.drop (w * s.n.toNat)).take s.n.toNat).count true))) ∧
        exec .decode s = .next { s with decBuf := some d, matched := decide (d = s.frame), busy := false })

/-- RUN and RUN.B (R115): every check first, then every buffer at once, from the functions of R91 to R112; with B = 1 COR is left
invalid and MATCH is 1. -/
def Obligations.RunCommand : Prop :=
  (∀ w : Word, w.extractLsb' 0 4 = 0x7#4 → decodeCommand w = if w.getLsbD 4 then .runB else .run) ∧
  ∀ (s : State) (b : Bool) (i : Instr), i = (if b then .runB else .run) →
    (¬ s.ParamsOk → exec i s = .next (s.afterError .invalidParameter)) ∧
    (s.ParamsOk → s.cfg.capBuf < s.frame.length * s.n.toNat → exec i s = .next (s.afterError .capacity)) ∧
    (s.ParamsOk → s.cfg.capBuf < Datapath.roundUp (s.frame.length * s.n.toNat) (s.m.toNat * s.t.toNat) →
      exec i s = .next (s.afterError .capacity)) ∧
    (s.ParamsOk → s.frame.length * s.n.toNat ≤ s.cfg.capBuf →
      Datapath.roundUp (s.frame.length * s.n.toNat) (s.m.toNat * s.t.toNat) ≤ s.cfg.capBuf →
      ∀ r p x c q d : Bits,
        r = Datapath.encode s.frame s.n.toNat → p = Datapath.pad r (s.m.toNat * s.t.toNat) →
        x = Datapath.interleave p s.m.toNat s.t.toNat → c = Datapath.corrupt x (s.m.toNat * s.t.toNat) →
        q = Datapath.deinterleave (if b then x else c) s.m.toNat s.t.toNat →
        d = Datapath.decode q s.n.toNat s.frame.length →
        exec i s = .next { s with
          redBuf := some r, padBuf := some p, ilvBuf := some x, corBuf := (if b then none else some c),
          recBuf := some q, bypass := b, decBuf := some d, matched := decide (d = s.frame), busy := false } ∧
        (b = true → decide (d = s.frame) = true))

/-! ## The pipeline as a whole -/

/-- RUN equals the stage sequence (R119): where RUN succeeds the sequence leaves the same state, with and without the channel. -/
def Obligations.RunEqualsStageSequence : Prop :=
  ∀ s t : State, s.err = .noError →
    (exec .run s = .next t → t.err = .noError →
      execAll [.encode, .padsplit, .interleave, .corrupt, .deinterleave, .decode] s = .next t) ∧
    (exec .runB s = .next t → t.err = .noError →
      execAll [.encode, .padsplit, .interleave, .deinterleaveB, .decode] s = .next t)

/-- Where RUN fails, the first command of the sequence that fails raises the same error; RUN has written nothing (R119). -/
def Obligations.RunFailsAsFirstFailingStage : Prop :=
  ∀ (s t : State) (i : Instr), i = .run ∨ i = .runB → s.err = .noError → exec i s = .next t → t.err ≠ .noError →
    t = { s with err := t.err, busy := false } ∧
    ((∃ t₁, exec .encode s = .next t₁ ∧ t₁.err = t.err) ∨
      (∃ t₁ t₂, exec .encode s = .next t₁ ∧ t₁.err = .noError ∧ exec .padsplit t₁ = .next t₂ ∧ t₂.err = t.err))

/-- The round trip without the channel (R114): RUN.B decodes FRAME exactly and MATCH = 1, for every FRAME and every N, M, T ≥ 1
whose buffers fit. -/
def Obligations.RoundTripWithoutChannel : Prop :=
  ∀ s : State, s.ParamsOk → s.frame.length * s.n.toNat ≤ s.cfg.capBuf →
    Datapath.roundUp (s.frame.length * s.n.toNat) (s.m.toNat * s.t.toNat) ≤ s.cfg.capBuf →
    ∃ t, exec .runB s = .next t ∧ t.decBuf = some s.frame ∧ t.matched = true ∧ t.bypass = true ∧ t.corBuf = none ∧
      t.recBuf = t.padBuf ∧ t.err = s.err ∧ t.busy = false

/-- What the decoder corrects (R114): in a coherent state, DECODE gives bit w of FRAME back exactly when at most N/2 bits of window w
differ from RED, for an original 0, and fewer than N/2, for an original 1; fewer than ceil(N/2) suffices for both. -/
def Obligations.DecoderCorrectsExactly : Prop :=
  ∀ (s : State) (q r : Bits), s.Coherent → s.recBuf = some q → s.redBuf = some r →
    ∃ (t : State) (d : Bits), exec .decode s = .next t ∧ t.decBuf = some d ∧
      ∀ w, w < s.frame.length →
        (s.frame[w]? = some false → (d[w]? = s.frame[w]? ↔ 2 * windowDiffs q r s.n.toNat w ≤ s.n.toNat)) ∧
        (s.frame[w]? = some true → (d[w]? = s.frame[w]? ↔ 2 * windowDiffs q r s.n.toNat w < s.n.toNat)) ∧
        (windowDiffs q r s.n.toNat w < (s.n.toNat + 1) / 2 → d[w]? = s.frame[w]?)

/-- Where the channel's flips land (R111): REC, deinterleaved from COR, differs from PAD in each group exactly at the positions
π(1) and π(2) that exist, with π(v) = (v mod T)*M + (v div T); worked out for T = 1, T = 2 and T ≥ 3. -/
def Obligations.ChannelFlipsLand : Prop :=
  ∀ (p : Bits) (m t : Nat), 1 ≤ m → 1 ≤ t → p.length % (m * t) = 0 →
    ∀ i, i < p.length →
      ((Datapath.deinterleave (Datapath.corrupt (Datapath.interleave p m t) (m * t)) m t)[i]? ≠ p[i]? ↔
        (1 < m * t ∧ i % (m * t) = (1 % t) * m + 1 / t) ∨ (2 < m * t ∧ i % (m * t) = (2 % t) * m + 2 / t)) ∧
      (t = 1 →
        ((1 < m * t ∧ i % (m * t) = (1 % t) * m + 1 / t) ∨ (2 < m * t ∧ i % (m * t) = (2 % t) * m + 2 / t) ↔
          (i % (m * t) = 1 ∧ 2 ≤ m) ∨ (i % (m * t) = 2 ∧ 3 ≤ m))) ∧
      (t = 2 →
        ((1 < m * t ∧ i % (m * t) = (1 % t) * m + 1 / t) ∨ (2 < m * t ∧ i % (m * t) = (2 % t) * m + 2 / t) ↔
          i % (m * t) = m ∨ (i % (m * t) = 1 ∧ 2 ≤ m))) ∧
      (3 ≤ t →
        ((1 < m * t ∧ i % (m * t) = (1 % t) * m + 1 / t) ∨ (2 < m * t ∧ i % (m * t) = (2 % t) * m + 2 / t) ↔
          i % (m * t) = m ∨ i % (m * t) = 2 * m))

/-! ## Laws of the datapath -/

/-- The laws of the encoder (R93). -/
def Obligations.EncoderLaws : Prop :=
  ∀ (f g : Bits) (n : Nat), 1 ≤ n →
    (Datapath.encode f n).length = f.length * n ∧
    Datapath.encode [] n = [] ∧
    Datapath.encode f 1 = f ∧
    Datapath.encode (f ++ g) n = Datapath.encode f n ++ Datapath.encode g n ∧
    ∀ i b, f[i]? = some b → ((Datapath.encode f n).drop (i * n)).take n = List.replicate n b

/-- The laws of the padder and the splitter (R97). -/
def Obligations.PadderLaws : Prop :=
  ∀ (r : Bits) (g : Nat), 1 ≤ g →
    let p := Datapath.pad r g
    p.length % g = 0 ∧
    r.length ≤ p.length ∧ p.length < r.length + g ∧
    p.take r.length = r ∧
    (∀ i, r.length ≤ i → i < p.length → p[i]? = some false) ∧
    (p.length = r.length ↔ r.length % g = 0) ∧
    (∀ x ∈ Datapath.groups p g, x.length = g) ∧
    (Datapath.groups p g).length = Datapath.ceilDiv r.length g ∧
    (Datapath.groups p g).flatten = p

/-- The laws of the interleaver (R101): a permutation with its position map both ways, the length and the number of 1 bits kept,
the identity for T = 1 and M = 1, and neighbours in an output string M apart in the input. -/
def Obligations.InterleaverLaws : Prop :=
  ∀ (x : Bits) (m t : Nat), 1 ≤ m → 1 ≤ t → x.length = m * t →
    let y := Datapath.interleaveGroup x m t
    y.Perm x ∧
    (∀ j k, j < m → k < t → y[j * t + k]? = x[k * m + j]?) ∧
    (∀ v, v < m * t → y[v]? = x[(v % t) * m + v / t]?) ∧
    y.length = m * t ∧ y.count true = x.count true ∧
    (t = 1 → y = x) ∧ (m = 1 → y = x) ∧
    (∀ v, v + 1 < m * t → (v + 1) % t ≠ 0 → ((v + 1) % t) * m + (v + 1) / t = ((v % t) * m + v / t) + m)

/-- The laws of the channel (R106): twice is the identity, each group has min(len − 1, 2) flips, they are exactly at the indices with
i mod g in 1, 2, and from g = 3 on there are 2 for each group. -/
def Obligations.ChannelLaws : Prop :=
  (∀ x : Bits, Datapath.corruptGroup (Datapath.corruptGroup x) = x) ∧
  (∀ x : Bits, 1 ≤ x.length →
    ((List.range x.length).filter fun i => (Datapath.corruptGroup x)[i]? != x[i]?).length = min (x.length - 1) 2) ∧
  (∀ (s : Bits) (g : Nat), 1 ≤ g → s.length % g = 0 →
    (∀ i, i < s.length → ((Datapath.corrupt s g)[i]? ≠ s[i]? ↔ i % g = 1 ∨ i % g = 2)) ∧
    (3 ≤ g →
      ((List.range s.length).filter fun i => (Datapath.corrupt s g)[i]? != s[i]?).length = 2 * (s.length / g)))

/-- The inverse laws (R110): deinterleaving undoes interleaving and the converse, the inverse transpose is the transpose with the
dimensions exchanged, the same over whole buffers, and the transform is not its own inverse. -/
def Obligations.DeinterleaveInvertsInterleave : Prop :=
  (∀ (x : Bits) (m t : Nat), 1 ≤ m → 1 ≤ t → x.length = m * t →
    Datapath.deinterleaveGroup (Datapath.interleaveGroup x m t) m t = x ∧
    Datapath.interleaveGroup (Datapath.deinterleaveGroup x m t) m t = x ∧
    Datapath.deinterleaveGroup x m t = Datapath.interleaveGroup x t m) ∧
  (∀ (p : Bits) (m t : Nat), 1 ≤ m → 1 ≤ t → p.length % (m * t) = 0 →
    Datapath.deinterleave (Datapath.interleave p m t) m t = p) ∧
  Datapath.interleaveGroup [false, false, false, true, true, true] 3 2 = [false, true, false, true, false, true] ∧
  Datapath.interleaveGroup [false, true, false, true, false, true] 3 2 = [false, true, true, false, false, true]

/-- The decoder on any sequence, partial last window included (R112): bit w is 1 exactly when the 1s of the window, cut at the end of
the sequence, outnumber its 0s. -/
def Obligations.DecoderVotesEveryWindow : Prop :=
  ∀ (r : Bits) (n L : Nat), 1 ≤ n → L ≤ Datapath.ceilDiv r.length n →
    (Datapath.decode r n L).length = L ∧
    ∀ w, w < L →
      (Datapath.decode r n L)[w]? =
        some (decide (min ((w + 1) * n) r.length - w * n <
          2 * ((List.range (min ((w + 1) * n) r.length - w * n)).filter fun k => r[w * n + k]? == some true).length))

/-- Groups are independent (R53): a buffer of whole groups in two parts is interleaved, corrupted and deinterleaved part by part. -/
def Obligations.GroupsAreIndependent : Prop :=
  ∀ (p q : Bits) (m t : Nat), 1 ≤ m → 1 ≤ t → p.length % (m * t) = 0 →
    Datapath.interleave (p ++ q) m t = Datapath.interleave p m t ++ Datapath.interleave q m t ∧
    Datapath.corrupt (p ++ q) (m * t) = Datapath.corrupt p (m * t) ++ Datapath.corrupt q (m * t) ∧
    Datapath.deinterleave (p ++ q) m t = Datapath.deinterleave p m t ++ Datapath.deinterleave q m t

/-! ## Invariants and rules of the whole machine -/

/-- Every step keeps the invariant `State.Coherent` (R8, R19, R25 to R28, R37, R118, R126). -/
def Obligations.StepKeepsCoherent : Prop :=
  ∀ s s' : State, s.Coherent → step s = .next s' → s'.Coherent

/-- The state after reset is coherent. -/
def Obligations.ResetIsCoherent : Prop := State.reset.Coherent

/-- Every state that any host can bring about is coherent: from reset, with any legal parameters, any inputs and any latencies
(these two are the model's fields for what the outside does, logs 2 and 4). -/
def Obligations.ReachableStatesAreCoherent : Prop :=
  ∀ (cfg : Params) (ins : List Input) (ls : List Nat) (k : Nat) (s : State), cfg.Legal →
    Host.Core.run Sys2Proof.core k
      { State.reset with cfg := cfg, inputs := ins, latencies := ls } = .next s →
    s.Coherent

/-- The lengths of the valid buffers and the validity chain (R25), in every coherent state. -/
def Obligations.BufferLengths : Prop :=
  ∀ s : State, s.Coherent →
    (∀ x, s.redBuf = some x → x.length = s.frame.length * s.n.toNat ∧ 1 ≤ s.n.toNat) ∧
    (∀ x, s.padBuf = some x ∨ s.ilvBuf = some x ∨ s.corBuf = some x ∨ s.recBuf = some x →
      x.length = Datapath.roundUp (s.frame.length * s.n.toNat) (s.m.toNat * s.t.toNat) ∧ x.length ≤ s.cfg.capBuf ∧
      1 ≤ s.m.toNat ∧ 1 ≤ s.t.toNat) ∧
    (∀ x, s.decBuf = some x → x.length = s.frame.length ∧ x.length ≤ s.cfg.capFrame) ∧
    (s.decBuf.isSome → s.recBuf.isSome) ∧ (s.recBuf.isSome → s.ilvBuf.isSome) ∧ (s.corBuf.isSome → s.ilvBuf.isSome) ∧
    (s.ilvBuf.isSome → s.padBuf.isSome) ∧ (s.padBuf.isSome → s.redBuf.isSome)

/-- DIMENSION_MISMATCH is unreachable (R126): in a coherent state no instruction records it. -/
def Obligations.DimensionMismatchUnreachable : Prop :=
  ∀ (s s' : State) (i : Instr), s.Coherent → exec i s = .next s' → s'.err ≠ .dimensionMismatch

/-- The first error stands (R26, R121): once ERR ≠ 0, a step leaves it or sets it to 0, and only a CLEAR written while BUSY = 0, or
reset, sets it to 0. -/
def Obligations.FirstErrorStands : Prop :=
  ∀ s s' : State, step s = .next s' → s.err ≠ .noError →
    s'.err = s.err ∨ (s'.err = .noError ∧ (s.NextIsReset ∨ (s.NextIsClear ∧ s.busy = false)))

/-- A command is all or nothing (R15, R46, R127): an engine step that records an error changes ERR and BUSY alone. -/
def Obligations.FailedCommandChangesNothing : Prop :=
  ∀ s s' : State, s.busy = true → (s.inputs = [] ∨ s.wait = 0) → s.err = .noError → step s = .next s' →
    s'.err ≠ .noError → s' = { s with err := s'.err, busy := false }

/-- While BUSY = 1 no host access changes what the engine works on, nor any result, flag or the pending command; at most it records
BUSY_VIOLATION (R45, R90, R138). That the access leaves the inputs and takes one from `wait` is the model's choice (logs 4 and 2). -/
def Obligations.BusyProtectsTheCommand : Prop :=
  ∀ (s s' : State) (a : Access) (rest : List Input), s.busy = true → s.wait ≠ 0 → s.inputs = .access a :: rest →
    step s = .next s' →
    s'.n = s.n ∧ s'.m = s.m ∧ s'.t = s.t ∧ s'.frame = s.frame ∧ s'.redBuf = s.redBuf ∧ s'.padBuf = s.padBuf ∧
    s'.ilvBuf = s.ilvBuf ∧ s'.corBuf = s.corBuf ∧ s'.recBuf = s.recBuf ∧ s'.decBuf = s.decBuf ∧
    s'.matched = s.matched ∧ s'.bypass = s.bypass ∧ s'.busy = true ∧ s'.pendOp = s.pendOp ∧ s'.pendB = s.pendB ∧
    s'.cfg = s.cfg ∧ s'.inputs = rest ∧ s'.wait = s.wait - 1 ∧
    (s'.err = s.err ∨ (s.err = .noError ∧ s'.err = .busyViolation))

/-- Host reads have no side effects (R45): a read changes only what the host was given (`readData`, and the count of unconstrained
draws, both the model's, logs 3 and 5). -/
def Obligations.ReadsHaveNoSideEffects : Prop :=
  ∀ (s : State) (off : BitVec 8),
    ∀ i ∈ [Instr.rdStatus, .rdN, .rdM, .rdT, .rdRdSel, .rdRdIdx, .rdRdData, .rdRdLen, .rdCapFrame, .rdCapBuf, .rdCmd,
        .rdFrameIn, .rdReserved30 off, .rdReserved40 off, .rdReserved80 off],
      ∃ (v : Word) (d : Nat), exec i s = .next { s with readData := some v, draws := d } ∧ (s.busy = false → d = s.draws)

/-- BUSY rises only by a CMD write of an engine command with ERR = 0, which latches that command (R30, R32, R70). -/
def Obligations.OnlyCommandWritesSetBusy : Prop :=
  ∀ s s' : State, step s = .next s' → s.busy = false → s'.busy = true →
    ∃ v rest, s.inputs = .access { dir := .write, off := 0, width := 32, data := v } :: rest ∧ s.err = .noError ∧
      1 ≤ (v.extractLsb' 0 4).toNat ∧ (v.extractLsb' 0 4).toNat ≤ 7 ∧
      s'.pendOp = v.extractLsb' 0 4 ∧ s'.pendB = v.getLsbD 4

/-- FRAME changes only by an accepted FRAME_IN write, which appends one bit, by CLEAR and by reset, which empty it (R22). -/
def Obligations.FrameChangesOnlyBy : Prop :=
  ∀ s s' : State, step s = .next s' → s'.frame ≠ s.frame →
    (s'.frame = [] ∧ (s.NextIsReset ∨ (s.NextIsClear ∧ s.busy = false))) ∨
    (∃ b v rest, s.inputs = .access { dir := .write, off := 0x14, width := 32, data := v } :: rest ∧
      v.extractLsb' 0 8 = (if b then 0x31#8 else 0x30#8) ∧ s.busy = false ∧ s.err = .noError ∧
      s.frame.length ≠ s.cfg.capFrame ∧ s'.frame = s.frame ++ [b])

/-- No result outlives what it was made from (R20, R37): a step that changes N, M, T or FRAME leaves every derived buffer invalid and
MATCH and BYPASS 0. -/
def Obligations.ChangedInputsInvalidateResults : Prop :=
  ∀ s s' : State, step s = .next s' → (s'.n ≠ s.n ∨ s'.m ≠ s.m ∨ s'.t ≠ s.t ∨ s'.frame ≠ s.frame) →
    s'.redBuf = none ∧ s'.padBuf = none ∧ s'.ilvBuf = none ∧ s'.corBuf = none ∧ s'.recBuf = none ∧ s'.decBuf = none ∧
    s'.matched = false ∧ s'.bypass = false

/-- RD_SEL and RD_IDX change only by the host's writes to them and by reset (R33), and the parameters never (R8). -/
def Obligations.ReadPortAndParametersKept : Prop :=
  ∀ s s' : State, step s = .next s' →
    s'.cfg = s.cfg ∧
    (s'.rdSel ≠ s.rdSel → s.NextIsReset ∨
      ∃ v rest, s.inputs = .access { dir := .write, off := 0x18, width := 32, data := v } :: rest ∧
        s'.rdSel = v.extractLsb' 0 3) ∧
    (s'.rdIdx ≠ s.rdIdx → s.NextIsReset ∨
      ∃ v rest, s.inputs = .access { dir := .write, off := 0x1C, width := 32, data := v } :: rest ∧ s'.rdIdx = v)

/-- The engine's latch is hidden while BUSY = 0 (R32): its value then reaches no other component, and a command that starts
overwrites it. -/
def Obligations.IdleLatchIsUnobservable : Prop :=
  ∀ (s t : State) (op : BitVec 4) (b : Bool), s.busy = false → step s = .next t →
    ∃ u, step { s with pendOp := op, pendB := b } = .next u ∧
      { u with pendOp := t.pendOp, pendB := t.pendB } = t ∧ (t.busy = true → u = t)

/-- A started command completes (R118, R141): from a busy state whose inputs are legal accesses and no reset, after no more host
steps than the latency left (the model's field `wait`, log 2) and with BUSY still 1, the engine's step executes the very command that
was latched, and BUSY is 0. -/
def Obligations.StartedCommandCompletes : Prop :=
  ∀ s : State, s.busy = true → isEngineOp s.pendOp = true → s.InputsLegal → Input.reset ∉ s.inputs →
    ∃ k u t, k ≤ s.wait ∧ Host.Core.run Sys2Proof.core k s = .next u ∧ u.busy = true ∧ u.turn = .engine ∧
      step u = .next t ∧ exec (commandOf s.pendOp s.pendB) u = .next t ∧ t.busy = false

/-- Both orders are admitted (R133): a write of N after a command's start is accepted where the engine step comes first, and
rejected where the write does; the model's field `wait` says which (log 2). -/
def Obligations.BothOrdersAdmitted : Prop :=
  ∀ (s : State) (v : Word), s.busy = true → isEngineOp s.pendOp = true →
    (∃ t, Host.Core.run Sys2Proof.core 2 { s with wait := 0, inputs := [wr .N v] } = .next t ∧
      t.busy = false ∧ t.n = v ∧ t.redBuf = none) ∧
    (∃ t, Host.Core.run Sys2Proof.core 2 { s with wait := 1, inputs := [wr .N v] } = .next t ∧
      t.busy = false ∧ t.n = s.n ∧ t.err ≠ .noError)

/-- A host that polls gets the same under every order (R48, R133): whatever the latency, polling STATUS past the completion leads to
the same state, with BUSY = 0 and the STATUS of that state read last (the latency is the model's field `wait`, log 2). -/
def Obligations.PollingHostSeesOneResult : Prop :=
  ∀ (s : State) (k l₁ l₂ : Nat), s.busy = true → isEngineOp s.pendOp = true → l₁ ≤ k → l₂ ≤ k →
    ∃ t, Host.Core.run Sys2Proof.core (k + 2) { s with wait := l₁, inputs := waitPolls (k + 1) } = .next t ∧
      Host.Core.run Sys2Proof.core (k + 2) { s with wait := l₂, inputs := waitPolls (k + 1) } = .next t ∧
      t.busy = false ∧ t.inputs = [] ∧ t.readData = some t.statusWord
end

