-- ==== Sys2Proof/Laws/Datapath.lean ====
section
/-! SUPPORT. For each datapath function, its length and its value at an index; later proofs cite these and unfold none of the
functions. -/

namespace Sys2Proof.Machine.Datapath

/-! ### Rounding -/

theorem dvd_roundUp (a g : Nat) : g ∣ roundUp a g := ⟨ceilDiv a g, Nat.mul_comm _ _⟩

theorem le_roundUp (a : Nat) {g : Nat} (hg : 1 ≤ g) : a ≤ roundUp a g := by
  unfold roundUp ceilDiv
  have h := Nat.div_add_mod (a + g - 1) g
  have h' := Nat.mod_lt (a + g - 1) (show g > 0 by omega)
  rw [Nat.mul_comm] at h
  omega

theorem roundUp_lt (a : Nat) {g : Nat} (hg : 1 ≤ g) : roundUp a g < a + g := by
  unfold roundUp ceilDiv
  have h := Nat.div_mul_le_self (a + g - 1) g
  omega

/-- Rounding up is the one multiple in its range. -/
theorem eq_roundUp {a g p : Nat} (hg : 1 ≤ g) (hd : g ∣ p) (h₁ : a ≤ p) (h₂ : p < a + g) : p = roundUp a g := by
  obtain ⟨k, rfl⟩ := hd
  have hl := le_roundUp a hg
  have hr := roundUp_lt a hg
  obtain ⟨j, hj⟩ := dvd_roundUp a g
  rw [hj] at hl hr ⊢
  have h₃ : g * k < g * (j + 1) := by rw [Nat.mul_succ]; omega
  have h₄ : g * j < g * (k + 1) := by rw [Nat.mul_succ]; omega
  have h₅ := Nat.lt_of_mul_lt_mul_left h₃
  have h₆ := Nat.lt_of_mul_lt_mul_left h₄
  rw [show k = j by omega]

/-! ### Slices and groups -/

@[simp] theorem length_slice (x : Bits) (a len : Nat) : (slice x a len).length = min len (x.length - a) := by
  simp [slice]

theorem getElem?_slice (x : Bits) (a : Nat) {len i : Nat} (h : i < len) : (slice x a len)[i]? = x[a + i]? := by
  simp [slice, h]

theorem bitAt_of_getElem? {x : Bits} {i : Nat} {b : Bit} (h : x[i]? = some b) : bitAt x i = b := by
  simp [bitAt, List.getD_eq_getElem?_getD, h]

theorem getElem?_eq_bitAt {x : Bits} {i : Nat} (h : i < x.length) : x[i]? = some (bitAt x i) := by
  simp [bitAt, h]

@[simp] theorem length_groups (p : Bits) (g : Nat) : (groups p g).length = p.length / g := by simp [groups]

/-- The blocks of the first `k` groups: their length, and the bit at an index. -/
theorem blocks_spec (f : Bits → Bits) {p : Bits} {g : Nat} (hf : ∀ x : Bits, x.length = g → (f x).length = g) (k : Nat)
    (hk : k * g ≤ p.length) :
    (((List.range k).map fun k => slice p (k * g) g).flatMap f).length = k * g ∧
    ∀ i, i < k * g →
      (((List.range k).map fun k => slice p (k * g) g).flatMap f)[i]? = (f (slice p (i / g * g) g))[i % g]? := by
  induction k with
  | zero => simp
  | succ k ih =>
    rw [Nat.succ_mul] at hk
    obtain ⟨hlen, hget⟩ := ih (by omega)
    have hl : (slice p (k * g) g).length = g := by rw [length_slice]; omega
    rw [List.range_succ, List.map_append, List.flatMap_append, Nat.succ_mul]
    refine ⟨by rw [List.length_append, hlen]; simp [hf _ hl], fun i hi => ?_⟩
    by_cases h : i < k * g
    · rw [List.getElem?_append_left (by omega), hget i h]
    · have hq : i / g = k := by
        rw [Nat.div_eq_iff (by omega)]
        omega
      have hm := Nat.div_add_mod i g
      rw [hq, Nat.mul_comm] at hm
      rw [List.getElem?_append_right (by omega), hlen, hq, show i % g = i - k * g by omega]
      simp

/-- A map of groups of `g` bits to blocks of `g` bits, applied group by group, keeps the length of a buffer of whole groups. -/
theorem length_flatMap_groups (f : Bits → Bits) {p : Bits} {g : Nat} (hf : ∀ x : Bits, x.length = g → (f x).length = g)
    (hp : p.length % g = 0) : ((groups p g).flatMap f).length = p.length := by
  have h := Nat.div_mul_cancel (Nat.dvd_of_mod_eq_zero hp)
  rw [groups, (blocks_spec f hf _ (by omega)).1, h]

/-- A block map applied group by group, at an index: the block of the index's group at the index's place in it. -/
theorem getElem?_flatMap_groups (f : Bits → Bits) {p : Bits} {g i : Nat}
    (hf : ∀ x : Bits, x.length = g → (f x).length = g) (hp : p.length % g = 0) (hi : i < p.length) :
    ((groups p g).flatMap f)[i]? = (f (slice p (i / g * g) g))[i % g]? := by
  have h := Nat.div_mul_cancel (Nat.dvd_of_mod_eq_zero hp)
  exact (blocks_spec f hf _ (by omega)).2 i (by omega)

/-! ### The transposition -/

/-- Rows of `n` bits each, laid one after the other: the length, and the bit at an index. -/
theorem rows_spec (f : Nat → Nat → Bit) (m n : Nat) :
    ((List.range m).flatMap fun j => (List.range n).map fun k => f j k).length = m * n ∧
    ∀ j k, j < m → k < n → ((List.range m).flatMap fun j => (List.range n).map fun k => f j k)[j * n + k]? = some (f j k) := by
  induction m with
  | zero => simp
  | succ m ih =>
    obtain ⟨ih₁, ih₂⟩ := ih
    rw [List.range_succ, List.flatMap_append]
    refine ⟨by rw [List.length_append, ih₁, Nat.succ_mul]; simp, fun j k hj hk => ?_⟩
    by_cases h : j < m
    · have : (j + 1) * n ≤ m * n := Nat.mul_le_mul_right n h
      rw [Nat.succ_mul] at this
      rw [List.getElem?_append_left (by omega)]
      exact ih₂ j k h hk
    · obtain rfl : j = m := by omega
      rw [List.getElem?_append_right (by omega), ih₁]
      simp [hk]

@[simp] theorem length_interleaveGroup (x : Bits) (m t : Nat) : (interleaveGroup x m t).length = m * t :=
  (rows_spec (fun j k => bitAt x (k * m + j)) m t).1

theorem getElem?_interleaveGroup (x : Bits) {m t j k : Nat} (hj : j < m) (hk : k < t) :
    (interleaveGroup x m t)[j * t + k]? = some (bitAt x (k * m + j)) :=
  (rows_spec (fun j k => bitAt x (k * m + j)) m t).2 j k hj hk

/-- The inverse transpose is the transpose with the dimensions exchanged. -/
theorem deinterleaveGroup_eq (x : Bits) (m t : Nat) : deinterleaveGroup x m t = interleaveGroup x t m := rfl

@[simp] theorem length_deinterleaveGroup (x : Bits) (m t : Nat) : (deinterleaveGroup x m t).length = m * t := by
  rw [deinterleaveGroup_eq, length_interleaveGroup, Nat.mul_comm]

theorem length_interleave {p : Bits} {m t : Nat} (h : p.length % (m * t) = 0) : (interleave p m t).length = p.length :=
  length_flatMap_groups _ (fun _ _ => length_interleaveGroup _ _ _) h

theorem length_deinterleave {p : Bits} {m t : Nat} (h : p.length % (m * t) = 0) : (deinterleave p m t).length = p.length :=
  length_flatMap_groups _ (fun _ _ => length_deinterleaveGroup _ _ _) h

/-! ### The channel -/

@[simp] theorem length_corruptGroup (x : Bits) : (corruptGroup x).length = x.length := by simp [corruptGroup]

theorem getElem?_corruptGroup (x : Bits) (i : Nat) :
    (corruptGroup x)[i]? = if i = 1 ∨ i = 2 then x[i]?.map (!·) else x[i]? := by
  simp only [corruptGroup, List.getElem?_mapIdx]
  cases x[i]? <;> split <;> simp

theorem length_corrupt {s : Bits} {g : Nat} (h : s.length % g = 0) : (corrupt s g).length = s.length :=
  length_flatMap_groups _ (fun x hx => by rw [length_corruptGroup, hx]) h

/-! ### Encoder, padder, decoder -/

theorem encode_cons (b : Bit) (f : Bits) (n : Nat) : encode (b :: f) n = List.replicate n b ++ encode f n := rfl

theorem length_pad_eq (r : Bits) {g : Nat} (hg : 1 ≤ g) : (pad r g).length = roundUp r.length g := by
  have := le_roundUp r.length hg
  simp [pad]
  omega

theorem length_decode (r : Bits) (n L : Nat) : (decode r n L).length = min L (ceilDiv r.length n) := by
  simp [decode]

end Sys2Proof.Machine.Datapath
end

