-- ==== Sys2Proof/Laws/State.lean ====
section
/-! SUPPORT. One lemma per field per update of the state, true by rfl, so that no later proof unfolds a record update. -/

namespace Sys2Proof.Machine

/-! ### recordError -/

@[simp] theorem State.recordError_n (s : State) (c : ErrorCode) : (s.recordError c).n = s.n := rfl
@[simp] theorem State.recordError_m (s : State) (c : ErrorCode) : (s.recordError c).m = s.m := rfl
@[simp] theorem State.recordError_t (s : State) (c : ErrorCode) : (s.recordError c).t = s.t := rfl
@[simp] theorem State.recordError_frame (s : State) (c : ErrorCode) : (s.recordError c).frame = s.frame := rfl
@[simp] theorem State.recordError_redBuf (s : State) (c : ErrorCode) : (s.recordError c).redBuf = s.redBuf := rfl
@[simp] theorem State.recordError_padBuf (s : State) (c : ErrorCode) : (s.recordError c).padBuf = s.padBuf := rfl
@[simp] theorem State.recordError_ilvBuf (s : State) (c : ErrorCode) : (s.recordError c).ilvBuf = s.ilvBuf := rfl
@[simp] theorem State.recordError_corBuf (s : State) (c : ErrorCode) : (s.recordError c).corBuf = s.corBuf := rfl
@[simp] theorem State.recordError_recBuf (s : State) (c : ErrorCode) : (s.recordError c).recBuf = s.recBuf := rfl
@[simp] theorem State.recordError_decBuf (s : State) (c : ErrorCode) : (s.recordError c).decBuf = s.decBuf := rfl
@[simp] theorem State.recordError_matched (s : State) (c : ErrorCode) : (s.recordError c).matched = s.matched := rfl
@[simp] theorem State.recordError_bypass (s : State) (c : ErrorCode) : (s.recordError c).bypass = s.bypass := rfl
@[simp] theorem State.recordError_err (s : State) (c : ErrorCode) : (s.recordError c).err = if s.err = .noError then c else s.err := rfl
@[simp] theorem State.recordError_busy (s : State) (c : ErrorCode) : (s.recordError c).busy = s.busy := rfl
@[simp] theorem State.recordError_pendOp (s : State) (c : ErrorCode) : (s.recordError c).pendOp = s.pendOp := rfl
@[simp] theorem State.recordError_pendB (s : State) (c : ErrorCode) : (s.recordError c).pendB = s.pendB := rfl
@[simp] theorem State.recordError_rdSel (s : State) (c : ErrorCode) : (s.recordError c).rdSel = s.rdSel := rfl
@[simp] theorem State.recordError_rdIdx (s : State) (c : ErrorCode) : (s.recordError c).rdIdx = s.rdIdx := rfl
@[simp] theorem State.recordError_cfg (s : State) (c : ErrorCode) : (s.recordError c).cfg = s.cfg := rfl
@[simp] theorem State.recordError_inputs (s : State) (c : ErrorCode) : (s.recordError c).inputs = s.inputs := rfl
@[simp] theorem State.recordError_readData (s : State) (c : ErrorCode) : (s.recordError c).readData = s.readData := rfl
@[simp] theorem State.recordError_wait (s : State) (c : ErrorCode) : (s.recordError c).wait = s.wait := rfl
@[simp] theorem State.recordError_latencies (s : State) (c : ErrorCode) : (s.recordError c).latencies = s.latencies := rfl
@[simp] theorem State.recordError_started (s : State) (c : ErrorCode) : (s.recordError c).started = s.started := rfl
@[simp] theorem State.recordError_draws (s : State) (c : ErrorCode) : (s.recordError c).draws = s.draws := rfl

/-! ### invalidateFrom -/

@[simp] theorem State.invalidateFrom_n (s : State) (x : BufferId) : (s.invalidateFrom x).n = s.n := rfl
@[simp] theorem State.invalidateFrom_m (s : State) (x : BufferId) : (s.invalidateFrom x).m = s.m := rfl
@[simp] theorem State.invalidateFrom_t (s : State) (x : BufferId) : (s.invalidateFrom x).t = s.t := rfl
@[simp] theorem State.invalidateFrom_frame (s : State) (x : BufferId) : (s.invalidateFrom x).frame = s.frame := rfl
@[simp] theorem State.invalidateFrom_redBuf (s : State) (x : BufferId) : (s.invalidateFrom x).redBuf = if .RED ∈ downstream x then none else s.redBuf := rfl
@[simp] theorem State.invalidateFrom_padBuf (s : State) (x : BufferId) : (s.invalidateFrom x).padBuf = if .PAD ∈ downstream x then none else s.padBuf := rfl
@[simp] theorem State.invalidateFrom_ilvBuf (s : State) (x : BufferId) : (s.invalidateFrom x).ilvBuf = if .ILV ∈ downstream x then none else s.ilvBuf := rfl
@[simp] theorem State.invalidateFrom_corBuf (s : State) (x : BufferId) : (s.invalidateFrom x).corBuf = if .COR ∈ downstream x then none else s.corBuf := rfl
@[simp] theorem State.invalidateFrom_recBuf (s : State) (x : BufferId) : (s.invalidateFrom x).recBuf = if .REC ∈ downstream x then none else s.recBuf := rfl
@[simp] theorem State.invalidateFrom_decBuf (s : State) (x : BufferId) : (s.invalidateFrom x).decBuf = if .DEC ∈ downstream x then none else s.decBuf := rfl
@[simp] theorem State.invalidateFrom_matched (s : State) (x : BufferId) : (s.invalidateFrom x).matched = if .DEC ∈ downstream x then false else s.matched := rfl
@[simp] theorem State.invalidateFrom_bypass (s : State) (x : BufferId) : (s.invalidateFrom x).bypass = if .REC ∈ downstream x then false else s.bypass := rfl
@[simp] theorem State.invalidateFrom_err (s : State) (x : BufferId) : (s.invalidateFrom x).err = s.err := rfl
@[simp] theorem State.invalidateFrom_busy (s : State) (x : BufferId) : (s.invalidateFrom x).busy = s.busy := rfl
@[simp] theorem State.invalidateFrom_pendOp (s : State) (x : BufferId) : (s.invalidateFrom x).pendOp = s.pendOp := rfl
@[simp] theorem State.invalidateFrom_pendB (s : State) (x : BufferId) : (s.invalidateFrom x).pendB = s.pendB := rfl
@[simp] theorem State.invalidateFrom_rdSel (s : State) (x : BufferId) : (s.invalidateFrom x).rdSel = s.rdSel := rfl
@[simp] theorem State.invalidateFrom_rdIdx (s : State) (x : BufferId) : (s.invalidateFrom x).rdIdx = s.rdIdx := rfl
@[simp] theorem State.invalidateFrom_cfg (s : State) (x : BufferId) : (s.invalidateFrom x).cfg = s.cfg := rfl
@[simp] theorem State.invalidateFrom_inputs (s : State) (x : BufferId) : (s.invalidateFrom x).inputs = s.inputs := rfl
@[simp] theorem State.invalidateFrom_readData (s : State) (x : BufferId) : (s.invalidateFrom x).readData = s.readData := rfl
@[simp] theorem State.invalidateFrom_wait (s : State) (x : BufferId) : (s.invalidateFrom x).wait = s.wait := rfl
@[simp] theorem State.invalidateFrom_latencies (s : State) (x : BufferId) : (s.invalidateFrom x).latencies = s.latencies := rfl
@[simp] theorem State.invalidateFrom_started (s : State) (x : BufferId) : (s.invalidateFrom x).started = s.started := rfl
@[simp] theorem State.invalidateFrom_draws (s : State) (x : BufferId) : (s.invalidateFrom x).draws = s.draws := rfl

/-! ### clearAll -/

@[simp] theorem State.clearAll_n (s : State) : (s.clearAll).n = s.n := rfl
@[simp] theorem State.clearAll_m (s : State) : (s.clearAll).m = s.m := rfl
@[simp] theorem State.clearAll_t (s : State) : (s.clearAll).t = s.t := rfl
@[simp] theorem State.clearAll_frame (s : State) : (s.clearAll).frame = [] := rfl
@[simp] theorem State.clearAll_redBuf (s : State) : (s.clearAll).redBuf = none := rfl
@[simp] theorem State.clearAll_padBuf (s : State) : (s.clearAll).padBuf = none := rfl
@[simp] theorem State.clearAll_ilvBuf (s : State) : (s.clearAll).ilvBuf = none := rfl
@[simp] theorem State.clearAll_corBuf (s : State) : (s.clearAll).corBuf = none := rfl
@[simp] theorem State.clearAll_recBuf (s : State) : (s.clearAll).recBuf = none := rfl
@[simp] theorem State.clearAll_decBuf (s : State) : (s.clearAll).decBuf = none := rfl
@[simp] theorem State.clearAll_matched (s : State) : (s.clearAll).matched = false := rfl
@[simp] theorem State.clearAll_bypass (s : State) : (s.clearAll).bypass = false := rfl
@[simp] theorem State.clearAll_err (s : State) : (s.clearAll).err = .noError := rfl
@[simp] theorem State.clearAll_busy (s : State) : (s.clearAll).busy = s.busy := rfl
@[simp] theorem State.clearAll_pendOp (s : State) : (s.clearAll).pendOp = s.pendOp := rfl
@[simp] theorem State.clearAll_pendB (s : State) : (s.clearAll).pendB = s.pendB := rfl
@[simp] theorem State.clearAll_rdSel (s : State) : (s.clearAll).rdSel = s.rdSel := rfl
@[simp] theorem State.clearAll_rdIdx (s : State) : (s.clearAll).rdIdx = s.rdIdx := rfl
@[simp] theorem State.clearAll_cfg (s : State) : (s.clearAll).cfg = s.cfg := rfl
@[simp] theorem State.clearAll_inputs (s : State) : (s.clearAll).inputs = s.inputs := rfl
@[simp] theorem State.clearAll_readData (s : State) : (s.clearAll).readData = s.readData := rfl
@[simp] theorem State.clearAll_wait (s : State) : (s.clearAll).wait = s.wait := rfl
@[simp] theorem State.clearAll_latencies (s : State) : (s.clearAll).latencies = s.latencies := rfl
@[simp] theorem State.clearAll_started (s : State) : (s.clearAll).started = s.started := rfl
@[simp] theorem State.clearAll_draws (s : State) : (s.clearAll).draws = s.draws := rfl

/-! ### startCommand -/

@[simp] theorem State.startCommand_n (s : State) (op : BitVec 4) (b : Bool) : (s.startCommand op b).n = s.n := rfl
@[simp] theorem State.startCommand_m (s : State) (op : BitVec 4) (b : Bool) : (s.startCommand op b).m = s.m := rfl
@[simp] theorem State.startCommand_t (s : State) (op : BitVec 4) (b : Bool) : (s.startCommand op b).t = s.t := rfl
@[simp] theorem State.startCommand_frame (s : State) (op : BitVec 4) (b : Bool) : (s.startCommand op b).frame = s.frame := rfl
@[simp] theorem State.startCommand_redBuf (s : State) (op : BitVec 4) (b : Bool) : (s.startCommand op b).redBuf = s.redBuf := rfl
@[simp] theorem State.startCommand_padBuf (s : State) (op : BitVec 4) (b : Bool) : (s.startCommand op b).padBuf = s.padBuf := rfl
@[simp] theorem State.startCommand_ilvBuf (s : State) (op : BitVec 4) (b : Bool) : (s.startCommand op b).ilvBuf = s.ilvBuf := rfl
@[simp] theorem State.startCommand_corBuf (s : State) (op : BitVec 4) (b : Bool) : (s.startCommand op b).corBuf = s.corBuf := rfl
@[simp] theorem State.startCommand_recBuf (s : State) (op : BitVec 4) (b : Bool) : (s.startCommand op b).recBuf = s.recBuf := rfl
@[simp] theorem State.startCommand_decBuf (s : State) (op : BitVec 4) (b : Bool) : (s.startCommand op b).decBuf = s.decBuf := rfl
@[simp] theorem State.startCommand_matched (s : State) (op : BitVec 4) (b : Bool) : (s.startCommand op b).matched = s.matched := rfl
@[simp] theorem State.startCommand_bypass (s : State) (op : BitVec 4) (b : Bool) : (s.startCommand op b).bypass = s.bypass := rfl
@[simp] theorem State.startCommand_err (s : State) (op : BitVec 4) (b : Bool) : (s.startCommand op b).err = s.err := rfl
@[simp] theorem State.startCommand_busy (s : State) (op : BitVec 4) (b : Bool) : (s.startCommand op b).busy = true := rfl
@[simp] theorem State.startCommand_pendOp (s : State) (op : BitVec 4) (b : Bool) : (s.startCommand op b).pendOp = op := rfl
@[simp] theorem State.startCommand_pendB (s : State) (op : BitVec 4) (b : Bool) : (s.startCommand op b).pendB = b := rfl
@[simp] theorem State.startCommand_rdSel (s : State) (op : BitVec 4) (b : Bool) : (s.startCommand op b).rdSel = s.rdSel := rfl
@[simp] theorem State.startCommand_rdIdx (s : State) (op : BitVec 4) (b : Bool) : (s.startCommand op b).rdIdx = s.rdIdx := rfl
@[simp] theorem State.startCommand_cfg (s : State) (op : BitVec 4) (b : Bool) : (s.startCommand op b).cfg = s.cfg := rfl
@[simp] theorem State.startCommand_inputs (s : State) (op : BitVec 4) (b : Bool) : (s.startCommand op b).inputs = s.inputs := rfl
@[simp] theorem State.startCommand_readData (s : State) (op : BitVec 4) (b : Bool) : (s.startCommand op b).readData = s.readData := rfl
@[simp] theorem State.startCommand_wait (s : State) (op : BitVec 4) (b : Bool) : (s.startCommand op b).wait = s.nextLatency := rfl
@[simp] theorem State.startCommand_latencies (s : State) (op : BitVec 4) (b : Bool) : (s.startCommand op b).latencies = s.latencies.tail := rfl
@[simp] theorem State.startCommand_started (s : State) (op : BitVec 4) (b : Bool) : (s.startCommand op b).started = s.started + 1 := rfl
@[simp] theorem State.startCommand_draws (s : State) (op : BitVec 4) (b : Bool) : (s.startCommand op b).draws = s.draws := rfl

/-! ### returnRead -/

@[simp] theorem State.returnRead_n (s : State) (v : Word) : (s.returnRead v).n = s.n := rfl
@[simp] theorem State.returnRead_m (s : State) (v : Word) : (s.returnRead v).m = s.m := rfl
@[simp] theorem State.returnRead_t (s : State) (v : Word) : (s.returnRead v).t = s.t := rfl
@[simp] theorem State.returnRead_frame (s : State) (v : Word) : (s.returnRead v).frame = s.frame := rfl
@[simp] theorem State.returnRead_redBuf (s : State) (v : Word) : (s.returnRead v).redBuf = s.redBuf := rfl
@[simp] theorem State.returnRead_padBuf (s : State) (v : Word) : (s.returnRead v).padBuf = s.padBuf := rfl
@[simp] theorem State.returnRead_ilvBuf (s : State) (v : Word) : (s.returnRead v).ilvBuf = s.ilvBuf := rfl
@[simp] theorem State.returnRead_corBuf (s : State) (v : Word) : (s.returnRead v).corBuf = s.corBuf := rfl
@[simp] theorem State.returnRead_recBuf (s : State) (v : Word) : (s.returnRead v).recBuf = s.recBuf := rfl
@[simp] theorem State.returnRead_decBuf (s : State) (v : Word) : (s.returnRead v).decBuf = s.decBuf := rfl
@[simp] theorem State.returnRead_matched (s : State) (v : Word) : (s.returnRead v).matched = s.matched := rfl
@[simp] theorem State.returnRead_bypass (s : State) (v : Word) : (s.returnRead v).bypass = s.bypass := rfl
@[simp] theorem State.returnRead_err (s : State) (v : Word) : (s.returnRead v).err = s.err := rfl
@[simp] theorem State.returnRead_busy (s : State) (v : Word) : (s.returnRead v).busy = s.busy := rfl
@[simp] theorem State.returnRead_pendOp (s : State) (v : Word) : (s.returnRead v).pendOp = s.pendOp := rfl
@[simp] theorem State.returnRead_pendB (s : State) (v : Word) : (s.returnRead v).pendB = s.pendB := rfl
@[simp] theorem State.returnRead_rdSel (s : State) (v : Word) : (s.returnRead v).rdSel = s.rdSel := rfl
@[simp] theorem State.returnRead_rdIdx (s : State) (v : Word) : (s.returnRead v).rdIdx = s.rdIdx := rfl
@[simp] theorem State.returnRead_cfg (s : State) (v : Word) : (s.returnRead v).cfg = s.cfg := rfl
@[simp] theorem State.returnRead_inputs (s : State) (v : Word) : (s.returnRead v).inputs = s.inputs := rfl
@[simp] theorem State.returnRead_readData (s : State) (v : Word) : (s.returnRead v).readData = some v := rfl
@[simp] theorem State.returnRead_wait (s : State) (v : Word) : (s.returnRead v).wait = s.wait := rfl
@[simp] theorem State.returnRead_latencies (s : State) (v : Word) : (s.returnRead v).latencies = s.latencies := rfl
@[simp] theorem State.returnRead_started (s : State) (v : Word) : (s.returnRead v).started = s.started := rfl
@[simp] theorem State.returnRead_draws (s : State) (v : Word) : (s.returnRead v).draws = s.draws := rfl

/-! ### returnAny -/

@[simp] theorem State.returnAny_n (s : State) : (s.returnAny).n = s.n := rfl
@[simp] theorem State.returnAny_m (s : State) : (s.returnAny).m = s.m := rfl
@[simp] theorem State.returnAny_t (s : State) : (s.returnAny).t = s.t := rfl
@[simp] theorem State.returnAny_frame (s : State) : (s.returnAny).frame = s.frame := rfl
@[simp] theorem State.returnAny_redBuf (s : State) : (s.returnAny).redBuf = s.redBuf := rfl
@[simp] theorem State.returnAny_padBuf (s : State) : (s.returnAny).padBuf = s.padBuf := rfl
@[simp] theorem State.returnAny_ilvBuf (s : State) : (s.returnAny).ilvBuf = s.ilvBuf := rfl
@[simp] theorem State.returnAny_corBuf (s : State) : (s.returnAny).corBuf = s.corBuf := rfl
@[simp] theorem State.returnAny_recBuf (s : State) : (s.returnAny).recBuf = s.recBuf := rfl
@[simp] theorem State.returnAny_decBuf (s : State) : (s.returnAny).decBuf = s.decBuf := rfl
@[simp] theorem State.returnAny_matched (s : State) : (s.returnAny).matched = s.matched := rfl
@[simp] theorem State.returnAny_bypass (s : State) : (s.returnAny).bypass = s.bypass := rfl
@[simp] theorem State.returnAny_err (s : State) : (s.returnAny).err = s.err := rfl
@[simp] theorem State.returnAny_busy (s : State) : (s.returnAny).busy = s.busy := rfl
@[simp] theorem State.returnAny_pendOp (s : State) : (s.returnAny).pendOp = s.pendOp := rfl
@[simp] theorem State.returnAny_pendB (s : State) : (s.returnAny).pendB = s.pendB := rfl
@[simp] theorem State.returnAny_rdSel (s : State) : (s.returnAny).rdSel = s.rdSel := rfl
@[simp] theorem State.returnAny_rdIdx (s : State) : (s.returnAny).rdIdx = s.rdIdx := rfl
@[simp] theorem State.returnAny_cfg (s : State) : (s.returnAny).cfg = s.cfg := rfl
@[simp] theorem State.returnAny_inputs (s : State) : (s.returnAny).inputs = s.inputs := rfl
@[simp] theorem State.returnAny_readData (s : State) : (s.returnAny).readData = some (Config.busyRead s.draws) := rfl
@[simp] theorem State.returnAny_wait (s : State) : (s.returnAny).wait = s.wait := rfl
@[simp] theorem State.returnAny_latencies (s : State) : (s.returnAny).latencies = s.latencies := rfl
@[simp] theorem State.returnAny_started (s : State) : (s.returnAny).started = s.started := rfl
@[simp] theorem State.returnAny_draws (s : State) : (s.returnAny).draws = s.draws + 1 := rfl

/-! ### accept -/

@[simp] theorem State.accept_n (s : State) (rest : List Input) : (s.accept rest).n = s.n := rfl
@[simp] theorem State.accept_m (s : State) (rest : List Input) : (s.accept rest).m = s.m := rfl
@[simp] theorem State.accept_t (s : State) (rest : List Input) : (s.accept rest).t = s.t := rfl
@[simp] theorem State.accept_frame (s : State) (rest : List Input) : (s.accept rest).frame = s.frame := rfl
@[simp] theorem State.accept_redBuf (s : State) (rest : List Input) : (s.accept rest).redBuf = s.redBuf := rfl
@[simp] theorem State.accept_padBuf (s : State) (rest : List Input) : (s.accept rest).padBuf = s.padBuf := rfl
@[simp] theorem State.accept_ilvBuf (s : State) (rest : List Input) : (s.accept rest).ilvBuf = s.ilvBuf := rfl
@[simp] theorem State.accept_corBuf (s : State) (rest : List Input) : (s.accept rest).corBuf = s.corBuf := rfl
@[simp] theorem State.accept_recBuf (s : State) (rest : List Input) : (s.accept rest).recBuf = s.recBuf := rfl
@[simp] theorem State.accept_decBuf (s : State) (rest : List Input) : (s.accept rest).decBuf = s.decBuf := rfl
@[simp] theorem State.accept_matched (s : State) (rest : List Input) : (s.accept rest).matched = s.matched := rfl
@[simp] theorem State.accept_bypass (s : State) (rest : List Input) : (s.accept rest).bypass = s.bypass := rfl
@[simp] theorem State.accept_err (s : State) (rest : List Input) : (s.accept rest).err = s.err := rfl
@[simp] theorem State.accept_busy (s : State) (rest : List Input) : (s.accept rest).busy = s.busy := rfl
@[simp] theorem State.accept_pendOp (s : State) (rest : List Input) : (s.accept rest).pendOp = s.pendOp := rfl
@[simp] theorem State.accept_pendB (s : State) (rest : List Input) : (s.accept rest).pendB = s.pendB := rfl
@[simp] theorem State.accept_rdSel (s : State) (rest : List Input) : (s.accept rest).rdSel = s.rdSel := rfl
@[simp] theorem State.accept_rdIdx (s : State) (rest : List Input) : (s.accept rest).rdIdx = s.rdIdx := rfl
@[simp] theorem State.accept_cfg (s : State) (rest : List Input) : (s.accept rest).cfg = s.cfg := rfl
@[simp] theorem State.accept_inputs (s : State) (rest : List Input) : (s.accept rest).inputs = rest := rfl
@[simp] theorem State.accept_readData (s : State) (rest : List Input) : (s.accept rest).readData = s.readData := rfl
@[simp] theorem State.accept_wait (s : State) (rest : List Input) : (s.accept rest).wait = s.wait - 1 := rfl
@[simp] theorem State.accept_latencies (s : State) (rest : List Input) : (s.accept rest).latencies = s.latencies := rfl
@[simp] theorem State.accept_started (s : State) (rest : List Input) : (s.accept rest).started = s.started := rfl
@[simp] theorem State.accept_draws (s : State) (rest : List Input) : (s.accept rest).draws = s.draws := rfl

/-! ### takeReset -/

@[simp] theorem State.takeReset_n (s : State) (rest : List Input) : (s.takeReset rest).n = 0 := rfl
@[simp] theorem State.takeReset_m (s : State) (rest : List Input) : (s.takeReset rest).m = 0 := rfl
@[simp] theorem State.takeReset_t (s : State) (rest : List Input) : (s.takeReset rest).t = 0 := rfl
@[simp] theorem State.takeReset_frame (s : State) (rest : List Input) : (s.takeReset rest).frame = [] := rfl
@[simp] theorem State.takeReset_redBuf (s : State) (rest : List Input) : (s.takeReset rest).redBuf = none := rfl
@[simp] theorem State.takeReset_padBuf (s : State) (rest : List Input) : (s.takeReset rest).padBuf = none := rfl
@[simp] theorem State.takeReset_ilvBuf (s : State) (rest : List Input) : (s.takeReset rest).ilvBuf = none := rfl
@[simp] theorem State.takeReset_corBuf (s : State) (rest : List Input) : (s.takeReset rest).corBuf = none := rfl
@[simp] theorem State.takeReset_recBuf (s : State) (rest : List Input) : (s.takeReset rest).recBuf = none := rfl
@[simp] theorem State.takeReset_decBuf (s : State) (rest : List Input) : (s.takeReset rest).decBuf = none := rfl
@[simp] theorem State.takeReset_matched (s : State) (rest : List Input) : (s.takeReset rest).matched = false := rfl
@[simp] theorem State.takeReset_bypass (s : State) (rest : List Input) : (s.takeReset rest).bypass = false := rfl
@[simp] theorem State.takeReset_err (s : State) (rest : List Input) : (s.takeReset rest).err = .noError := rfl
@[simp] theorem State.takeReset_busy (s : State) (rest : List Input) : (s.takeReset rest).busy = false := rfl
@[simp] theorem State.takeReset_pendOp (s : State) (rest : List Input) : (s.takeReset rest).pendOp = 0 := rfl
@[simp] theorem State.takeReset_pendB (s : State) (rest : List Input) : (s.takeReset rest).pendB = false := rfl
@[simp] theorem State.takeReset_rdSel (s : State) (rest : List Input) : (s.takeReset rest).rdSel = 0 := rfl
@[simp] theorem State.takeReset_rdIdx (s : State) (rest : List Input) : (s.takeReset rest).rdIdx = 0 := rfl
@[simp] theorem State.takeReset_cfg (s : State) (rest : List Input) : (s.takeReset rest).cfg = s.cfg := rfl
@[simp] theorem State.takeReset_inputs (s : State) (rest : List Input) : (s.takeReset rest).inputs = rest := rfl
@[simp] theorem State.takeReset_readData (s : State) (rest : List Input) : (s.takeReset rest).readData = s.readData := rfl
@[simp] theorem State.takeReset_wait (s : State) (rest : List Input) : (s.takeReset rest).wait = 0 := rfl
@[simp] theorem State.takeReset_latencies (s : State) (rest : List Input) : (s.takeReset rest).latencies = s.latencies := rfl
@[simp] theorem State.takeReset_started (s : State) (rest : List Input) : (s.takeReset rest).started = s.started := rfl
@[simp] theorem State.takeReset_draws (s : State) (rest : List Input) : (s.takeReset rest).draws = s.draws := rfl

end Sys2Proof.Machine
end

