-- ==== Sys2Proof/Laws/Ops.lean ====
section
/-! SUPPORT. For each shared operation, one lemma that says once everything it can do; what one step can do (`step_cases`); the
lemmas about fetching. Later proofs cite these and unfold none of the operations. -/

namespace Sys2Proof.Machine

/-! ### Recording an error -/

theorem State.recordError_of_noError {s : State} (h : s.err = .noError) (c : ErrorCode) :
    s.recordError c = { s with err := c } := by
  simp [State.recordError, h]

theorem State.recordError_of_error {s : State} (h : s.err ≠ .noError) (c : ErrorCode) : s.recordError c = s := by
  simp [State.recordError, h]

/-! ### Invalidation -/

theorem State.invalidateFrom_FRAME (s : State) :
    s.invalidateFrom .FRAME =
      { s with redBuf := none, padBuf := none, ilvBuf := none, corBuf := none, recBuf := none, decBuf := none,
               matched := false, bypass := false } := rfl

theorem State.invalidateFrom_RED (s : State) :
    s.invalidateFrom .RED =
      { s with padBuf := none, ilvBuf := none, corBuf := none, recBuf := none, decBuf := none,
               matched := false, bypass := false } := rfl

theorem State.invalidateFrom_PAD (s : State) :
    s.invalidateFrom .PAD =
      { s with ilvBuf := none, corBuf := none, recBuf := none, decBuf := none, matched := false, bypass := false } := rfl

theorem State.invalidateFrom_ILV (s : State) :
    s.invalidateFrom .ILV =
      { s with corBuf := none, recBuf := none, decBuf := none, matched := false, bypass := false } := rfl

theorem State.invalidateFrom_COR (s : State) :
    s.invalidateFrom .COR = { s with recBuf := none, decBuf := none, matched := false, bypass := false } := rfl

theorem State.invalidateFrom_REC (s : State) :
    s.invalidateFrom .REC = { s with decBuf := none, matched := false } := rfl

theorem State.invalidateFrom_DEC (s : State) : s.invalidateFrom .DEC = s := rfl

/-! ### The BUSY guard and the completion of a command -/

@[simp] theorem State.guardBusy_busy {s : State} (h : s.busy = true) (f : State → State) :
    s.guardBusy f = s.recordError .busyViolation := by
  simp [State.guardBusy, h]

@[simp] theorem State.guardBusy_idle {s : State} (h : s.busy = false) (f : State → State) : s.guardBusy f = f s := by
  simp [State.guardBusy, h]

@[simp] theorem State.complete_ok (s s' : State) : s.complete (.ok s') = { s' with busy := false } := rfl

@[simp] theorem State.complete_error (s : State) (c : ErrorCode) :
    s.complete (.error c) = { s.recordError c with busy := false } := rfl

@[simp] theorem State.complete_busy (s : State) (r : Except ErrorCode State) : (s.complete r).busy = false := by
  cases r <;> rfl

/-! ### What a stage can answer -/

/-- ENCODE answers its result or one of its errors (R92, R122). -/
theorem State.encodeStage_cases (s : State) :
    (¬ s.ParamsOk ∧ s.encodeStage = .error .invalidParameter) ∨
    (s.ParamsOk ∧ s.cfg.capBuf < s.frame.length * s.n.toNat ∧ s.encodeStage = .error .capacity) ∨
    (s.ParamsOk ∧ s.frame.length * s.n.toNat ≤ s.cfg.capBuf ∧
      s.encodeStage =
        .ok (({ s with redBuf := some (Datapath.encode s.frame s.n.toNat) }).invalidateFrom .RED)) := by
  unfold State.encodeStage
  split
  · exact .inl ⟨‹_›, rfl⟩
  · split
    · exact .inr (.inl ⟨not_not.mp ‹_›, ‹_›, rfl⟩)
    · exact .inr (.inr ⟨not_not.mp ‹_›, not_lt.mp ‹_›, rfl⟩)

/-- PADSPLIT answers its result or one of its errors (R96, R122). -/
theorem State.padsplitStage_cases (s : State) :
    (¬ s.ParamsOk ∧ s.padsplitStage = .error .invalidParameter) ∨
    (s.ParamsOk ∧ s.redBuf = none ∧ s.padsplitStage = .error .sequence) ∨
    (s.ParamsOk ∧ ∃ r, s.redBuf = some r ∧ s.cfg.capBuf < Datapath.roundUp r.length s.groupSize ∧
      s.padsplitStage = .error .capacity) ∨
    (s.ParamsOk ∧ ∃ r, s.redBuf = some r ∧ Datapath.roundUp r.length s.groupSize ≤ s.cfg.capBuf ∧
      s.padsplitStage = .ok (({ s with padBuf := some (Datapath.pad r s.groupSize) }).invalidateFrom .PAD)) := by
  unfold State.padsplitStage
  split
  · exact .inl ⟨‹_›, rfl⟩
  · have hp := not_not.mp ‹_›
    split
    · exact .inr (.inl ⟨hp, ‹_›, rfl⟩)
    · split
      · exact .inr (.inr (.inl ⟨hp, _, ‹_›, ‹_›, rfl⟩))
      · exact .inr (.inr (.inr ⟨hp, _, ‹_›, not_lt.mp ‹_›, rfl⟩))

/-- INTERLEAVE answers its result or one of its errors (R100, R122). -/
theorem State.interleaveStage_cases (s : State) :
    (¬ s.ParamsOk ∧ s.interleaveStage = .error .invalidParameter) ∨
    (s.ParamsOk ∧ s.padBuf = none ∧ s.interleaveStage = .error .sequence) ∨
    (s.ParamsOk ∧ ∃ p, s.padBuf = some p ∧ p.length % s.groupSize ≠ 0 ∧
      s.interleaveStage = .error .dimensionMismatch) ∨
    (s.ParamsOk ∧ ∃ p, s.padBuf = some p ∧ p.length % s.groupSize = 0 ∧
      s.interleaveStage =
        .ok (({ s with ilvBuf := some (Datapath.interleave p s.m.toNat s.t.toNat) }).invalidateFrom .ILV)) := by
  unfold State.interleaveStage
  split
  · exact .inl ⟨‹_›, rfl⟩
  · have hp := not_not.mp ‹_›
    split
    · exact .inr (.inl ⟨hp, ‹_›, rfl⟩)
    · split
      · exact .inr (.inr (.inl ⟨hp, _, ‹_›, ‹_›, rfl⟩))
      · exact .inr (.inr (.inr ⟨hp, _, ‹_›, not_not.mp ‹_›, rfl⟩))

/-- CORRUPT answers its result or one of its errors (R105, R122). -/
theorem State.corruptStage_cases (s : State) :
    (¬ s.ParamsOk ∧ s.corruptStage = .error .invalidParameter) ∨
    (s.ParamsOk ∧ s.ilvBuf = none ∧ s.corruptStage = .error .sequence) ∨
    (s.ParamsOk ∧ ∃ x, s.ilvBuf = some x ∧ x.length % s.groupSize ≠ 0 ∧
      s.corruptStage = .error .dimensionMismatch) ∨
    (s.ParamsOk ∧ ∃ x, s.ilvBuf = some x ∧ x.length % s.groupSize = 0 ∧
      s.corruptStage = .ok (({ s with corBuf := some (Datapath.corrupt x s.groupSize) }).invalidateFrom .COR)) := by
  unfold State.corruptStage
  split
  · exact .inl ⟨‹_›, rfl⟩
  · have hp := not_not.mp ‹_›
    split
    · exact .inr (.inl ⟨hp, ‹_›, rfl⟩)
    · split
      · exact .inr (.inr (.inl ⟨hp, _, ‹_›, ‹_›, rfl⟩))
      · exact .inr (.inr (.inr ⟨hp, _, ‹_›, not_not.mp ‹_›, rfl⟩))

/-- The source buffer of DEINTERLEAVE: COR through the channel, ILV without it (R109). -/
def State.deinterleaveSource (s : State) (b : Bool) : Option Bits := if b then s.ilvBuf else s.corBuf

/-- DEINTERLEAVE answers its result or one of its errors (R109, R122). -/
theorem State.deinterleaveStage_cases (s : State) (b : Bool) :
    (¬ s.ParamsOk ∧ s.deinterleaveStage b = .error .invalidParameter) ∨
    (s.ParamsOk ∧ s.deinterleaveSource b = none ∧ s.deinterleaveStage b = .error .sequence) ∨
    (s.ParamsOk ∧ ∃ x, s.deinterleaveSource b = some x ∧ x.length % s.groupSize ≠ 0 ∧
      s.deinterleaveStage b = .error .dimensionMismatch) ∨
    (s.ParamsOk ∧ ∃ x, s.deinterleaveSource b = some x ∧ x.length % s.groupSize = 0 ∧
      s.deinterleaveStage b =
        .ok { s with recBuf := some (Datapath.deinterleave x s.m.toNat s.t.toNat), decBuf := none,
                     matched := false, bypass := b }) := by
  unfold State.deinterleaveStage State.deinterleaveSource
  split
  · exact .inl ⟨‹_›, rfl⟩
  · have hp := not_not.mp ‹_›
    split
    · exact .inr (.inl ⟨hp, ‹_›, rfl⟩)
    · split
      · exact .inr (.inr (.inl ⟨hp, _, ‹_›, ‹_›, rfl⟩))
      · exact .inr (.inr (.inr ⟨hp, _, ‹_›, not_not.mp ‹_›, rfl⟩))

/-- DECODE answers its result or one of its errors (R113, R122). -/
theorem State.decodeStage_cases (s : State) :
    (¬ s.ParamsOk ∧ s.decodeStage = .error .invalidParameter) ∨
    (s.ParamsOk ∧ s.recBuf = none ∧ s.decodeStage = .error .sequence) ∨
    (s.ParamsOk ∧ ∃ q, s.recBuf = some q ∧ q.length < s.frame.length * s.n.toNat ∧
      s.decodeStage = .error .dimensionMismatch) ∨
    (s.ParamsOk ∧ ∃ q, s.recBuf = some q ∧ s.frame.length * s.n.toNat ≤ q.length ∧
      s.decodeStage =
        .ok { s with decBuf := some (Datapath.decode q s.n.toNat s.frame.length),
                     matched := matchBit (Datapath.decode q s.n.toNat s.frame.length) s.frame }) := by
  unfold State.decodeStage
  split
  · exact .inl ⟨‹_›, rfl⟩
  · have hp := not_not.mp ‹_›
    split
    · exact .inr (.inl ⟨hp, ‹_›, rfl⟩)
    · split
      · exact .inr (.inr (.inl ⟨hp, _, ‹_›, ‹_›, rfl⟩))
      · exact .inr (.inr (.inr ⟨hp, _, ‹_›, not_lt.mp ‹_›, rfl⟩))

/-- The state RUN leaves when no check fails (R115). -/
def State.ranState (s : State) (b : Bool) : State :=
  let r := Datapath.encode s.frame s.n.toNat
  let p := Datapath.pad r s.groupSize
  let i := Datapath.interleave p s.m.toNat s.t.toNat
  let c := Datapath.corrupt i s.groupSize
  let q := Datapath.deinterleave (if b then i else c) s.m.toNat s.t.toNat
  let d := Datapath.decode q s.n.toNat s.frame.length
  { s with
    redBuf := some r, padBuf := some p, ilvBuf := some i
    corBuf := if b then none else some c
    recBuf := some q, bypass := b
    decBuf := some d, matched := matchBit d s.frame }

/-- RUN answers its result or one of its errors (R115, R122). -/
theorem State.runStage_cases (s : State) (b : Bool) :
    (¬ s.ParamsOk ∧ s.runStage b = .error .invalidParameter) ∨
    (s.ParamsOk ∧ s.cfg.capBuf < s.frame.length * s.n.toNat ∧ s.runStage b = .error .capacity) ∨
    (s.ParamsOk ∧ s.frame.length * s.n.toNat ≤ s.cfg.capBuf ∧
      s.cfg.capBuf < Datapath.roundUp (s.frame.length * s.n.toNat) s.groupSize ∧ s.runStage b = .error .capacity) ∨
    (s.ParamsOk ∧ s.frame.length * s.n.toNat ≤ s.cfg.capBuf ∧
      Datapath.roundUp (s.frame.length * s.n.toNat) s.groupSize ≤ s.cfg.capBuf ∧
      s.runStage b = .ok (s.ranState b)) := by
  unfold State.runStage
  split
  · exact .inl ⟨‹_›, rfl⟩
  · have hp := not_not.mp ‹_›
    split
    · exact .inr (.inl ⟨hp, ‹_›, rfl⟩)
    · split
      · exact .inr (.inr (.inl ⟨hp, not_lt.mp ‹_›, ‹_›, rfl⟩))
      · exact .inr (.inr (.inr ⟨hp, not_lt.mp ‹_›, not_lt.mp ‹_›, rfl⟩))

/-! ### The frame port and the command port -/

/-- What a character offered while BUSY = 0 can do (R77). -/
theorem State.appendChar_cases (s : State) (c : BitVec 8) :
    (s.err ≠ .noError ∧ s.appendChar c = s) ∨
    (s.err = .noError ∧ charBit c = none ∧ s.appendChar c = { s with err := .invalidFrame }) ∨
    (s.err = .noError ∧ (∃ b, charBit c = some b) ∧ s.frame.length = s.cfg.capFrame ∧
      s.appendChar c = { s with err := .capacity }) ∨
    (s.err = .noError ∧ s.frame.length ≠ s.cfg.capFrame ∧
      ∃ b, charBit c = some b ∧
        s.appendChar c = ({ s with frame := s.frame ++ [b] }).invalidateFrom .FRAME) := by
  unfold State.appendChar
  split
  · exact .inl ⟨‹_›, rfl⟩
  · have he := not_not.mp ‹_›
    split
    · exact .inr (.inl ⟨he, ‹_›, State.recordError_of_noError he _⟩)
    · split
      · exact .inr (.inr (.inl ⟨he, ⟨_, ‹_›⟩, ‹_›, State.recordError_of_noError he _⟩))
      · exact .inr (.inr (.inr ⟨he, ‹_›, _, ‹_›, rfl⟩))

/-- What a command word written while BUSY = 0 can do (R70). -/
theorem State.commandWrite_cases (s : State) (op : BitVec 4) (b : Bool) :
    (0x9 ≤ op.toNat ∧ s.commandWrite op b = s.recordError .reservedOpcode) ∨
    (op = 0x0#4 ∧ s.commandWrite op b = s) ∨
    (op = 0x8#4 ∧ s.commandWrite op b = s.clearAll) ∨
    (isEngineOp op = true ∧ s.err ≠ .noError ∧ s.commandWrite op b = s) ∨
    (isEngineOp op = true ∧ s.err = .noError ∧ s.commandWrite op b = s.startCommand op b) := by
  have hop : ¬ (0x9 ≤ op.toNat) → op ≠ 0x0#4 → op ≠ 0x8#4 → isEngineOp op = true := by revert op; decide
  unfold State.commandWrite
  split
  · exact .inl ⟨‹_›, rfl⟩
  · split
    · exact .inr (.inl ⟨‹_›, rfl⟩)
    · split
      · exact .inr (.inr (.inl ⟨‹_›, rfl⟩))
      · have h := hop ‹_› ‹_› ‹_›
        split
        · exact .inr (.inr (.inr (.inl ⟨h, ‹_›, rfl⟩)))
        · exact .inr (.inr (.inr (.inr ⟨h, not_not.mp ‹_›, rfl⟩)))

/-! ### Fetching and stepping -/

/-- Whose step comes next (R47). -/
theorem State.turn_cases (s : State) :
    (s.busy = true ∧ (s.inputs = [] ∨ s.wait = 0) ∧ s.turn = .engine) ∨
    (s.busy = false ∧ s.inputs = [] ∧ s.turn = .idle) ∨
    (∃ i rest, s.inputs = i :: rest ∧ ¬ (s.busy = true ∧ s.wait = 0) ∧ s.turn = .input i rest) := by
  unfold State.turn
  cases hi : s.inputs with
  | nil => cases hb : s.busy <;> simp
  | cons i rest =>
    by_cases h : s.busy = true ∧ s.wait = 0
    · left; simp [h]
    · right; right; exact ⟨i, rest, rfl, h, by simp [h]⟩

/-- A legal access decodes; its fetch never fails (R42, R44, R67). -/
theorem fetchAccess_ok {a : Access} (hw : a.width = 32) (ho : a.off < 256) {i : Instr}
    (hd : decode (.access (accessKey a.dir (BitVec.ofNat 8 a.off)) a.data) = .ok i) : fetchAccess a = .ok i := by
  have ho' : ¬ a.off ≥ 256 := by omega
  unfold fetchAccess
  rw [if_neg (by simp [hw]), if_neg ho', hd]

/-- What one step can do: it is the engine's command, an access of the host, a reset, or nothing (R18, R47, R118, R134). -/
theorem step_cases {s s' : State} (h : step s = .next s') :
    (∃ i, s.busy = true ∧ (s.inputs = [] ∨ s.wait = 0) ∧ isEngineOp s.pendOp = true ∧
      i = commandOf s.pendOp s.pendB ∧ exec i s = .next s') ∨
    (∃ a rest i, s.inputs = .access a :: rest ∧ ¬ (s.busy = true ∧ s.wait = 0) ∧ fetchAccess a = .ok i ∧
      exec i (s.accept rest) = .next s') ∨
    (∃ rest, s.inputs = .reset :: rest ∧ ¬ (s.busy = true ∧ s.wait = 0) ∧ s' = s.takeReset rest) ∨
    (s.busy = false ∧ s.inputs = [] ∧ s' = s) := by
  unfold step at h
  rcases s.turn_cases with ⟨hb, hw, ht⟩ | ⟨hb, hi, ht⟩ | ⟨i, rest, hi, hw, ht⟩
  · rw [ht] at h
    by_cases hop : isEngineOp s.pendOp = true
    · simp only [State.fetchEngine, hop, if_true] at h
      exact .inl ⟨_, hb, hw, hop, rfl, h⟩
    · simp [State.fetchEngine, hop] at h
  · rw [ht] at h
    exact .inr (.inr (.inr ⟨hb, hi, by simpa using h.symm⟩))
  · rw [ht] at h
    cases i with
    | reset => exact .inr (.inr (.inl ⟨rest, hi, hw, by simpa using h.symm⟩))
    | access a =>
      cases hf : fetchAccess a with
      | ok i => simp only [hf] at h; exact .inr (.inl ⟨a, rest, i, hi, hw, hf, h⟩)
      | error f => simp [hf] at h

/-- Every meaning answers a next state: no instruction of the table stops the machine. -/
theorem exec_answers_next (i : Instr) (s : State) : ∃ s', exec i s = .next s' := by
  cases i <;> exact ⟨_, rfl⟩

/-- The instruction of an engine command: one of the nine the engine executes (R118). -/
theorem commandOf_engine {op : BitVec 4} (b : Bool) (h : isEngineOp op = true) :
    commandOf op b ∈
      [.encode, .padsplit, .interleave, .corrupt, .deinterleave, .deinterleaveB, .decode, .run, .runB] := by
  revert op b; decide

/-- Every engine command is the completion of a stage's answer (R118). -/
theorem exec_engine {i : Instr} (s : State)
    (h : i ∈ [.encode, .padsplit, .interleave, .corrupt, .deinterleave, .deinterleaveB, .decode, .run, .runB]) :
    ∃ r, r ∈ [s.encodeStage, s.padsplitStage, s.interleaveStage, s.corruptStage, s.deinterleaveStage false,
        s.deinterleaveStage true, s.decodeStage, s.runStage false, s.runStage true] ∧
      exec i s = .next (s.complete r) := by
  fin_cases h <;> exact ⟨_, by simp, rfl⟩

end Sys2Proof.Machine
end

