-- ==== Sys2Proof/Laws/PerInstr.lean ====
section
/-! SUPPORT. A law of every instruction, one lemma for each constructor: the encoding of a well-formed instruction lies in its row
of spec/opcode_table.json, the row's format, mask and match. -/

namespace Sys2Proof.Laws.EncodingRow

/-- A row of the opcode table: its format and, within the format's bits, its mask and match. -/
inductive Row
  | cmd (mask mtch : BitVec 32)
  | mmio (mask mtch : BitVec 9)
deriving DecidableEq, Repr

/-- An operation lies in a row. -/
def Row.holds : Row → Operation → Bool
  | .cmd mask mtch, .command w => w &&& mask == mtch
  | .mmio mask mtch, .access key _ => key &&& mask == mtch
  | .cmd _ _, .access _ _ => false
  | .mmio _ _, .command _ => false

/-- The row of each instruction. -/
def row : Instr → Row
  | .nop => .cmd 0x0000000F 0x00000000
  | .encode => .cmd 0x0000000F 0x00000001
  | .padsplit => .cmd 0x0000000F 0x00000002
  | .interleave => .cmd 0x0000000F 0x00000003
  | .corrupt => .cmd 0x0000000F 0x00000004
  | .deinterleave => .cmd 0x0000001F 0x00000005
  | .deinterleaveB => .cmd 0x0000001F 0x00000015
  | .decode => .cmd 0x0000000F 0x00000006
  | .run => .cmd 0x0000001F 0x00000007
  | .runB => .cmd 0x0000001F 0x00000017
  | .clear => .cmd 0x0000000F 0x00000008
  | .reservedOp9 => .cmd 0x0000000F 0x00000009
  | .reservedOpAB _ => .cmd 0x0000000E 0x0000000A
  | .reservedOpCF _ => .cmd 0x0000000C 0x0000000C
  | .wrCmd _ => .mmio 0x1FF 0x100
  | .rdStatus => .mmio 0x1FF 0x004
  | .wrN _ => .mmio 0x1FF 0x108
  | .rdN => .mmio 0x1FF 0x008
  | .wrM _ => .mmio 0x1FF 0x10C
  | .rdM => .mmio 0x1FF 0x00C
  | .wrT _ => .mmio 0x1FF 0x110
  | .rdT => .mmio 0x1FF 0x010
  | .wrFrameIn _ => .mmio 0x1FF 0x114
  | .wrRdSel _ => .mmio 0x1FF 0x118
  | .rdRdSel => .mmio 0x1FF 0x018
  | .wrRdIdx _ => .mmio 0x1FF 0x11C
  | .rdRdIdx => .mmio 0x1FF 0x01C
  | .rdRdData => .mmio 0x1FF 0x020
  | .rdRdLen => .mmio 0x1FF 0x024
  | .rdCapFrame => .mmio 0x1FF 0x028
  | .rdCapBuf => .mmio 0x1FF 0x02C
  | .wrStatus _ => .mmio 0x1FF 0x104
  | .wrRdData _ => .mmio 0x1FF 0x120
  | .wrRdLen _ => .mmio 0x1FF 0x124
  | .wrCapFrame _ => .mmio 0x1FF 0x128
  | .wrCapBuf _ => .mmio 0x1FF 0x12C
  | .rdCmd => .mmio 0x1FF 0x000
  | .rdFrameIn => .mmio 0x1FF 0x014
  | .rdReserved30 _ => .mmio 0x1F3 0x030
  | .rdReserved40 _ => .mmio 0x1C3 0x040
  | .rdReserved80 _ => .mmio 0x183 0x080
  | .wrReserved30 _ _ => .mmio 0x1F3 0x130
  | .wrReserved40 _ _ => .mmio 0x1C3 0x140
  | .wrReserved80 _ _ => .mmio 0x183 0x180

/-- The encoding of a well-formed instruction lies in its row (R56, R60, R62). -/
def Statement (i : Instr) : Prop := i.WellFormed = true → (row i).holds (Sys2Proof.encode i) = true

/-- An offset whose masked bits are a row's gives a key whose masked bits are the row's, in both directions. -/
theorem key_of_offset (off : BitVec 8) :
    (off &&& 0xF3#8 = 0x30#8 →
      accessKey .read off &&& 0x1F3#9 = 0x030#9 ∧ accessKey .write off &&& 0x1F3#9 = 0x130#9) ∧
    (off &&& 0xC3#8 = 0x40#8 →
      accessKey .read off &&& 0x1C3#9 = 0x040#9 ∧ accessKey .write off &&& 0x1C3#9 = 0x140#9) ∧
    (off &&& 0x83#8 = 0x80#8 →
      accessKey .read off &&& 0x183#9 = 0x080#9 ∧ accessKey .write off &&& 0x183#9 = 0x180#9) := by
  revert off
  decide

theorem nop : Statement .nop := fun _ => rfl
theorem encode : Statement .encode := fun _ => rfl
theorem padsplit : Statement .padsplit := fun _ => rfl
theorem interleave : Statement .interleave := fun _ => rfl
theorem corrupt : Statement .corrupt := fun _ => rfl
theorem deinterleave : Statement .deinterleave := fun _ => rfl
theorem deinterleaveB : Statement .deinterleaveB := fun _ => rfl
theorem decode : Statement .decode := fun _ => rfl
theorem run : Statement .run := fun _ => rfl
theorem runB : Statement .runB := fun _ => rfl
theorem clear : Statement .clear := fun _ => rfl
theorem reservedOp9 : Statement .reservedOp9 := fun _ => rfl
theorem reservedOpAB (op : BitVec 4) : Statement (.reservedOpAB op) := by revert op; unfold Statement; decide
theorem reservedOpCF (op : BitVec 4) : Statement (.reservedOpCF op) := by revert op; unfold Statement; decide
theorem wrCmd (v : Word) : Statement (.wrCmd v) := fun _ => rfl
theorem rdStatus : Statement .rdStatus := fun _ => rfl
theorem wrN (v : Word) : Statement (.wrN v) := fun _ => rfl
theorem rdN : Statement .rdN := fun _ => rfl
theorem wrM (v : Word) : Statement (.wrM v) := fun _ => rfl
theorem rdM : Statement .rdM := fun _ => rfl
theorem wrT (v : Word) : Statement (.wrT v) := fun _ => rfl
theorem rdT : Statement .rdT := fun _ => rfl
theorem wrFrameIn (v : Word) : Statement (.wrFrameIn v) := fun _ => rfl
theorem wrRdSel (v : Word) : Statement (.wrRdSel v) := fun _ => rfl
theorem rdRdSel : Statement .rdRdSel := fun _ => rfl
theorem wrRdIdx (v : Word) : Statement (.wrRdIdx v) := fun _ => rfl
theorem rdRdIdx : Statement .rdRdIdx := fun _ => rfl
theorem rdRdData : Statement .rdRdData := fun _ => rfl
theorem rdRdLen : Statement .rdRdLen := fun _ => rfl
theorem rdCapFrame : Statement .rdCapFrame := fun _ => rfl
theorem rdCapBuf : Statement .rdCapBuf := fun _ => rfl
theorem wrStatus (v : Word) : Statement (.wrStatus v) := fun _ => rfl
theorem wrRdData (v : Word) : Statement (.wrRdData v) := fun _ => rfl
theorem wrRdLen (v : Word) : Statement (.wrRdLen v) := fun _ => rfl
theorem wrCapFrame (v : Word) : Statement (.wrCapFrame v) := fun _ => rfl
theorem wrCapBuf (v : Word) : Statement (.wrCapBuf v) := fun _ => rfl
theorem rdCmd : Statement .rdCmd := fun _ => rfl
theorem rdFrameIn : Statement .rdFrameIn := fun _ => rfl
theorem rdReserved30 (off : BitVec 8) : Statement (.rdReserved30 off) := fun h => beq_iff_eq.mpr (((key_of_offset off).1 (beq_iff_eq.mp h)).1)
theorem rdReserved40 (off : BitVec 8) : Statement (.rdReserved40 off) := fun h => beq_iff_eq.mpr (((key_of_offset off).2.1 (beq_iff_eq.mp h)).1)
theorem rdReserved80 (off : BitVec 8) : Statement (.rdReserved80 off) := fun h => beq_iff_eq.mpr (((key_of_offset off).2.2 (beq_iff_eq.mp h)).1)
theorem wrReserved30 (off : BitVec 8) (v : Word) : Statement (.wrReserved30 off v) := fun h => beq_iff_eq.mpr (((key_of_offset off).1 (beq_iff_eq.mp h)).2)
theorem wrReserved40 (off : BitVec 8) (v : Word) : Statement (.wrReserved40 off v) := fun h => beq_iff_eq.mpr (((key_of_offset off).2.1 (beq_iff_eq.mp h)).2)
theorem wrReserved80 (off : BitVec 8) (v : Word) : Statement (.wrReserved80 off v) := fun h => beq_iff_eq.mpr (((key_of_offset off).2.2 (beq_iff_eq.mp h)).2)

end Sys2Proof.Laws.EncodingRow
end

