-- ==== Sys2Proof/Laws/Step.lean ====
section
/-! SUPPORT. What a step of each agent can do, said once: which instruction a host access is, what the engine's command leaves
(`engine_step`), and what a host access leaves (`host_step`). -/

namespace Sys2Proof.Machine

/-! ### Which instruction an access is -/

theorem keyOff_accessKey (d : Dir) (o : BitVec 8) : keyOff (accessKey d o) = o := by
  revert o; cases d <;> decide

theorem keyDir_accessKey (d : Dir) (o : BitVec 8) : keyDir (accessKey d o) = d := by
  revert o; cases d <;> decide

/-- An access that has a step is legal, and decodes by its direction and offset (R42, R44, R55). -/
theorem fetchAccess_inv {a : Access} {i : Instr} (h : fetchAccess a = .ok i) :
    a.Legal ∧ i = (match a.dir with
      | .read => decodeRead (BitVec.ofNat 8 a.off)
      | .write => decodeWrite (BitVec.ofNat 8 a.off) a.data) := by
  have h4 : ∀ o : BitVec 8, o.extractLsb' 0 2 = 0#2 → o.toNat % 4 = 0 := by decide
  unfold fetchAccess at h
  split at h
  · cases h
  · rename_i hw
    split at h
    · cases h
    · rename_i ho
      simp only [decode, keyOff_accessKey, keyDir_accessKey, decodeAccess] at h
      by_cases hc : (BitVec.ofNat 8 a.off).extractLsb' 0 2 = 0#2
      · have hm := h4 _ hc
        rw [BitVec.toNat_ofNat] at hm
        refine ⟨⟨not_not.mp hw, by omega, by omega⟩, ?_⟩
        cases hd : a.dir <;> simp_all
      · simp [hc] at h

/-- The reads (R56). -/
def readInstrs (o : BitVec 8) : List Instr :=
  [.rdCmd, .rdStatus, .rdN, .rdM, .rdT, .rdFrameIn, .rdRdSel, .rdRdIdx, .rdRdData, .rdRdLen, .rdCapFrame, .rdCapBuf,
    .rdReserved30 o, .rdReserved40 o, .rdReserved80 o]

/-- The writes without effect (R87, R89). -/
def ignoredWrites (o : BitVec 8) (v : Word) : List Instr :=
  [.wrStatus v, .wrRdData v, .wrRdLen v, .wrCapFrame v, .wrCapBuf v, .wrReserved30 o v, .wrReserved40 o v,
    .wrReserved80 o v]

theorem decodeRead_mem (o : BitVec 8) : decodeRead o ∈ readInstrs o := by
  revert o
  decide

theorem decodeWrite_cases (o : BitVec 8) (v : Word) :
    (o = 0x00#8 ∧ decodeWrite o v = .wrCmd v) ∨ (o = 0x08#8 ∧ decodeWrite o v = .wrN v) ∨
    (o = 0x0C#8 ∧ decodeWrite o v = .wrM v) ∨ (o = 0x10#8 ∧ decodeWrite o v = .wrT v) ∨
    (o = 0x14#8 ∧ decodeWrite o v = .wrFrameIn v) ∨ (o = 0x18#8 ∧ decodeWrite o v = .wrRdSel v) ∨
    (o = 0x1C#8 ∧ decodeWrite o v = .wrRdIdx v) ∨ decodeWrite o v ∈ ignoredWrites o v := by
  unfold decodeWrite
  by_cases h00 : o = 0x00#8
  · subst h00; simp [ignoredWrites]
  rw [if_neg h00]
  by_cases h04 : o = 0x04#8
  · subst h04; simp [ignoredWrites]
  rw [if_neg h04]
  by_cases h08 : o = 0x08#8
  · subst h08; simp [ignoredWrites]
  rw [if_neg h08]
  by_cases h0C : o = 0x0C#8
  · subst h0C; simp [ignoredWrites]
  rw [if_neg h0C]
  by_cases h10 : o = 0x10#8
  · subst h10; simp [ignoredWrites]
  rw [if_neg h10]
  by_cases h14 : o = 0x14#8
  · subst h14; simp [ignoredWrites]
  rw [if_neg h14]
  by_cases h18 : o = 0x18#8
  · subst h18; simp [ignoredWrites]
  rw [if_neg h18]
  by_cases h1C : o = 0x1C#8
  · subst h1C; simp [ignoredWrites]
  rw [if_neg h1C]
  by_cases h20 : o = 0x20#8
  · subst h20; simp [ignoredWrites]
  rw [if_neg h20]
  by_cases h24 : o = 0x24#8
  · subst h24; simp [ignoredWrites]
  rw [if_neg h24]
  by_cases h28 : o = 0x28#8
  · subst h28; simp [ignoredWrites]
  rw [if_neg h28]
  by_cases h2C : o = 0x2C#8
  · subst h2C; simp [ignoredWrites]
  rw [if_neg h2C]
  iterate 7 right
  by_cases h30 : o &&& 0xF3#8 = 0x30#8
  · rw [if_pos h30]; simp [ignoredWrites]
  rw [if_neg h30]
  by_cases h40 : o &&& 0xC3#8 = 0x40#8
  · rw [if_pos h40]; simp [ignoredWrites]
  rw [if_neg h40]
  simp [ignoredWrites]

/-! ### The engine -/

/-- The answers the engine's commands can give. -/
def State.stageAnswers (s : State) : List (Except ErrorCode State) :=
  [s.encodeStage, s.padsplitStage, s.interleaveStage, s.corruptStage, s.deinterleaveStage false,
    s.deinterleaveStage true, s.decodeStage, s.runStage false, s.runStage true]

/-- A stage that succeeds writes derived buffers, MATCH and BYPASS, and nothing else. -/
theorem stage_frame {s u : State} (h : .ok u ∈ s.stageAnswers) :
    u = { s with
      redBuf := u.redBuf, padBuf := u.padBuf, ilvBuf := u.ilvBuf, corBuf := u.corBuf, recBuf := u.recBuf,
      decBuf := u.decBuf, matched := u.matched, bypass := u.bypass } := by
  simp only [State.stageAnswers, List.mem_cons, List.not_mem_nil, or_false] at h
  rcases h with h | h | h | h | h | h | h | h | h
  · rcases s.encodeStage_cases with ⟨_, e⟩ | ⟨_, _, e⟩ | ⟨_, _, e⟩ <;> rw [e] at h <;> cases h
    rfl
  · rcases s.padsplitStage_cases with ⟨_, e⟩ | ⟨_, _, e⟩ | ⟨_, _, _, _, e⟩ | ⟨_, _, _, _, e⟩ <;> rw [e] at h <;> cases h
    rfl
  · rcases s.interleaveStage_cases with ⟨_, e⟩ | ⟨_, _, e⟩ | ⟨_, _, _, _, e⟩ | ⟨_, _, _, _, e⟩ <;> rw [e] at h <;> cases h
    rfl
  · rcases s.corruptStage_cases with ⟨_, e⟩ | ⟨_, _, e⟩ | ⟨_, _, _, _, e⟩ | ⟨_, _, _, _, e⟩ <;> rw [e] at h <;> cases h
    rfl
  · rcases s.deinterleaveStage_cases false with ⟨_, e⟩ | ⟨_, _, e⟩ | ⟨_, _, _, _, e⟩ | ⟨_, _, _, _, e⟩ <;>
      rw [e] at h <;> cases h
    rfl
  · rcases s.deinterleaveStage_cases true with ⟨_, e⟩ | ⟨_, _, e⟩ | ⟨_, _, _, _, e⟩ | ⟨_, _, _, _, e⟩ <;>
      rw [e] at h <;> cases h
    rfl
  · rcases s.decodeStage_cases with ⟨_, e⟩ | ⟨_, _, e⟩ | ⟨_, _, _, _, e⟩ | ⟨_, _, _, _, e⟩ <;> rw [e] at h <;> cases h
    rfl
  · rcases s.runStage_cases false with ⟨_, e⟩ | ⟨_, _, e⟩ | ⟨_, _, _, e⟩ | ⟨_, _, _, e⟩ <;> rw [e] at h <;> cases h
    rfl
  · rcases s.runStage_cases true with ⟨_, e⟩ | ⟨_, _, e⟩ | ⟨_, _, _, e⟩ | ⟨_, _, _, e⟩ <;> rw [e] at h <;> cases h
    rfl

/-- The engine executes the latched command as the completion of one of those answers (R118). -/
theorem exec_commandOf {s s' : State} {op : BitVec 4} {b : Bool} (h : isEngineOp op = true)
    (he : exec (commandOf op b) s = .next s') : ∃ r ∈ s.stageAnswers, s' = s.complete r := by
  obtain ⟨r, hr, e⟩ := exec_engine s (commandOf_engine b h)
  rw [e] at he
  exact ⟨r, hr, by simpa using he.symm⟩

/-- What an engine step can do: record an error and clear BUSY, or write results and clear BUSY (R118). -/
theorem engine_step {s s' : State} {op : BitVec 4} {b : Bool} (h : isEngineOp op = true)
    (he : exec (commandOf op b) s = .next s') :
    (∃ c, s' = s.afterError c) ∨
    (∃ r p i c q d mt bp, s' = { s with
      redBuf := r, padBuf := p, ilvBuf := i, corBuf := c, recBuf := q, decBuf := d, matched := mt, bypass := bp,
      busy := false }) := by
  obtain ⟨r, hr, rfl⟩ := exec_commandOf h he
  cases r with
  | error c => exact .inl ⟨c, rfl⟩
  | ok u =>
    refine .inr ⟨u.redBuf, u.padBuf, u.ilvBuf, u.corBuf, u.recBuf, u.decBuf, u.matched, u.bypass, ?_⟩
    rw [State.complete_ok, stage_frame hr]

/-! ### The host -/

/-- What a read can do: return a value, at most drawing a free one. -/
theorem exec_readInstrs {s s' : State} {o : BitVec 8} {i : Instr} (hi : i ∈ readInstrs o) (he : exec i s = .next s') :
    ∃ v d, s' = { s with readData := v, draws := d } := by
  simp only [readInstrs, List.mem_cons, List.not_mem_nil, or_false] at hi
  rcases hi with rfl | rfl | rfl | rfl | rfl | rfl | rfl | rfl | rfl | rfl | rfl | rfl | rfl | rfl | rfl
  case inr.inr.inr.inr.inr.inr.inr.inr.inl =>
    simp only [exec, execRdRdData] at he
    injection he with he
    subst he
    split <;> exact ⟨_, _, rfl⟩
  case inr.inr.inr.inr.inr.inr.inr.inr.inr.inl =>
    simp only [exec, execRdRdLen] at he
    injection he with he
    subst he
    split <;> exact ⟨_, _, rfl⟩
  all_goals (injection he with he; subst he; exact ⟨_, _, rfl⟩)

/-- What a write without effect can do: nothing. -/
theorem exec_ignoredWrites {s s' : State} {o : BitVec 8} {v : Word} {i : Instr} (hi : i ∈ ignoredWrites o v)
    (he : exec i s = .next s') : s' = s := by
  simp only [ignoredWrites, List.mem_cons, List.not_mem_nil, or_false] at hi
  rcases hi with rfl | rfl | rfl | rfl | rfl | rfl | rfl | rfl <;> (injection he with he; exact he.symm)

/-- The BUSY guard, as a case split. -/
theorem State.guardBusy_cases (s : State) (f : State → State) :
    (s.busy = true ∧ s.guardBusy f = s.afterViolation) ∨ (s.busy = false ∧ s.guardBusy f = f s) := by
  cases hb : s.busy
  · exact .inr ⟨rfl, State.guardBusy_idle hb f⟩
  · exact .inl ⟨rfl, State.guardBusy_busy hb f⟩

/-- What one access of the host can do, `s` being the state with the access taken off the inputs. -/
theorem host_step {s s' : State} {a : Access} {i : Instr} (h : fetchAccess a = .ok i) (he : exec i s = .next s') :
    (s.busy = true ∧ s' = s.afterViolation) ∨
    (∃ v, s.busy = false ∧ a = { dir := .write, off := 0x00, width := 32, data := v } ∧
      s' = s.commandWrite (cmdOp v) (cmdB v)) ∨
    (∃ v, s.busy = false ∧ a = { dir := .write, off := 0x08, width := 32, data := v } ∧
      s' = ({ s with n := v }).invalidateFrom .FRAME) ∨
    (∃ v, s.busy = false ∧ a = { dir := .write, off := 0x0C, width := 32, data := v } ∧
      s' = ({ s with m := v }).invalidateFrom .FRAME) ∨
    (∃ v, s.busy = false ∧ a = { dir := .write, off := 0x10, width := 32, data := v } ∧
      s' = ({ s with t := v }).invalidateFrom .FRAME) ∨
    (∃ v, s.busy = false ∧ a = { dir := .write, off := 0x14, width := 32, data := v } ∧
      s' = s.appendChar (charField v)) ∨
    (∃ v, a = { dir := .write, off := 0x18, width := 32, data := v } ∧ s' = { s with rdSel := selField v }) ∨
    (∃ v, a = { dir := .write, off := 0x1C, width := 32, data := v } ∧ s' = { s with rdIdx := v }) ∨
    (∃ v d, s' = { s with readData := v, draws := d }) := by
  obtain ⟨⟨hw, ho, -⟩, hi⟩ := fetchAccess_inv h
  obtain ⟨dir, off, w, data⟩ := a
  simp only at hw ho hi ⊢
  subst hw
  cases dir with
  | read =>
    iterate 8 right
    rw [hi] at he
    exact exec_readInstrs (decodeRead_mem _) he
  | write =>
    have key : ∀ k < 256, BitVec.ofNat 8 off = BitVec.ofNat 8 k → off = k := by
      intro k hk h
      have := congrArg BitVec.toNat h
      rw [BitVec.toNat_ofNat, BitVec.toNat_ofNat] at this
      omega
    simp only at hi
    rcases decodeWrite_cases (BitVec.ofNat 8 off) data with
      ⟨hk, e⟩ | ⟨hk, e⟩ | ⟨hk, e⟩ | ⟨hk, e⟩ | ⟨hk, e⟩ | ⟨hk, e⟩ | ⟨hk, e⟩ | e
    · rw [hi, e] at he
      obtain rfl := key 0x00 (by decide) hk
      injection he with he
      rcases s.guardBusy_cases fun s => s.commandWrite (cmdOp data) (cmdB data) with ⟨hb, hg⟩ | ⟨hb, hg⟩ <;> rw [hg] at he
      · exact .inl ⟨hb, he.symm⟩
      · exact .inr (.inl ⟨data, hb, rfl, he.symm⟩)
    · rw [hi, e] at he
      obtain rfl := key 0x08 (by decide) hk
      injection he with he
      rcases s.guardBusy_cases fun s => ({ s with n := data }).invalidateFrom .FRAME with ⟨hb, hg⟩ | ⟨hb, hg⟩ <;>
        rw [hg] at he
      · exact .inl ⟨hb, he.symm⟩
      · exact .inr (.inr (.inl ⟨data, hb, rfl, he.symm⟩))
    · rw [hi, e] at he
      obtain rfl := key 0x0C (by decide) hk
      injection he with he
      rcases s.guardBusy_cases fun s => ({ s with m := data }).invalidateFrom .FRAME with ⟨hb, hg⟩ | ⟨hb, hg⟩ <;>
        rw [hg] at he
      · exact .inl ⟨hb, he.symm⟩
      · exact .inr (.inr (.inr (.inl ⟨data, hb, rfl, he.symm⟩)))
    · rw [hi, e] at he
      obtain rfl := key 0x10 (by decide) hk
      injection he with he
      rcases s.guardBusy_cases fun s => ({ s with t := data }).invalidateFrom .FRAME with ⟨hb, hg⟩ | ⟨hb, hg⟩ <;>
        rw [hg] at he
      · exact .inl ⟨hb, he.symm⟩
      · exact .inr (.inr (.inr (.inr (.inl ⟨data, hb, rfl, he.symm⟩))))
    · rw [hi, e] at he
      obtain rfl := key 0x14 (by decide) hk
      injection he with he
      rcases s.guardBusy_cases fun s => s.appendChar (charField data) with ⟨hb, hg⟩ | ⟨hb, hg⟩ <;> rw [hg] at he
      · exact .inl ⟨hb, he.symm⟩
      · exact .inr (.inr (.inr (.inr (.inr (.inl ⟨data, hb, rfl, he.symm⟩)))))
    · rw [hi, e] at he
      obtain rfl := key 0x18 (by decide) hk
      injection he with he
      iterate 6 right
      exact .inl ⟨data, rfl, he.symm⟩
    · rw [hi, e] at he
      obtain rfl := key 0x1C (by decide) hk
      injection he with he
      iterate 7 right
      exact .inl ⟨data, rfl, he.symm⟩
    · iterate 8 right
      rw [hi] at he
      exact ⟨_, _, exec_ignoredWrites e he⟩

end Sys2Proof.Machine
end

