-- ==== Sys2Proof/Tests/Slice0.lean ====
section
/-! SUPPORT. The model's own tests: ill-formed terms refused, the words of R56 and R60 written out bit by bit, vectors and examples of
the spec (S and V numbers are 95_test_vectors.md's), one step each, and for every statement with hypotheses a witness of them. -/

namespace Sys2Proof.Tests

open Sys2Proof Sys2Proof.Machine

/-! ### Helpers -/

/-- A bit string, index 0 first, as the spec writes it. -/
def bits (l : List Nat) : Bits := l.map (· == 1)

/-- A component of the next state, if there is one. -/
def after {α : Type} (r : Result) (f : State → α) : Option α :=
  match r with
  | .next s => some (f s)
  | .fault _ => none
  | .refused _ => none

theorem reaches {r : Result} (P : State → Prop) [DecidablePred P] (h : after r (fun t => decide (P t)) = some true) :
    ∃ t, r = .next t ∧ P t := by
  cases r with
  | next t => exact ⟨t, rfl, by simpa [after] using h⟩
  | fault f => simp [after] at h
  | refused f => simp [after] at h

/-- The fault a step ends in, if it does. -/
def stopsWith (r : Result) : Option Fault :=
  match r with
  | .next _ => none
  | .fault f => some f
  | .refused _ => none

/-- After reset, with the capacities of 95_test_vectors.md. -/
def base : State := { State.reset with cfg := ⟨0x4000, 1024, 8192⟩ }

/-- "0110". -/
def frame0 : Bits := bits [0, 1, 1, 0]

/-- After `setup 3, 3, 2` and `load "0110"` (S1 to S4). -/
def loaded : State := { base with n := 3, m := 3, t := 2, frame := frame0 }

/-- Buffers of S1 to S4. -/
def red0 : Bits := bits [0, 0, 0, 1, 1, 1, 1, 1, 1, 0, 0, 0]
def ilv0 : Bits := bits [0, 1, 0, 1, 0, 1, 1, 0, 1, 0, 1, 0]
def cor0 : Bits := bits [0, 0, 1, 1, 0, 1, 1, 1, 0, 0, 1, 0]
def rec0 : Bits := bits [0, 1, 0, 0, 1, 1, 1, 0, 1, 1, 0, 0]

/-- After RUN on `loaded`, as S4 gives it. -/
def ran : State :=
  { loaded with
    redBuf := some red0, padBuf := some red0, ilvBuf := some ilv0, corBuf := some cor0, recBuf := some rec0
    decBuf := some frame0, matched := true }

/-- A command of the latch about to complete. -/
def pending (s : State) (op : BitVec 4) (b : Bool) : State := { s with busy := true, pendOp := op, pendB := b }

/-- A write as the host's only input. -/
def writing (s : State) (off : Nat) (v : Word) : State :=
  { s with inputs := [.access { dir := .write, off := off, width := 32, data := v }] }

/-- A read as the host's only input. -/
def reading (s : State) (off : Nat) : State :=
  { s with inputs := [.access { dir := .read, off := off, width := 32, data := 0 }] }

/-! ### Ill-formed terms are refused -/

theorem test_wf_reservedOpAB : Instr.WellFormed (.reservedOpAB 0xC) = false := by decide
theorem test_wf_reservedOpCF : Instr.WellFormed (.reservedOpCF 0xB) = false := by decide
theorem test_wf_rdReserved30 : Instr.WellFormed (.rdReserved30 0x2C) = false := by decide
theorem test_wf_rdReserved40 : Instr.WellFormed (.rdReserved40 0x80) = false := by decide
theorem test_wf_rdReserved80 : Instr.WellFormed (.rdReserved80 0x82) = false := by decide
theorem test_wf_wrReserved30 : Instr.WellFormed (.wrReserved30 0x40 0) = false := by decide
theorem test_wf_wrReserved40 : Instr.WellFormed (.wrReserved40 0x3C 0) = false := by decide
theorem test_wf_wrReserved80 : Instr.WellFormed (.wrReserved80 0x7C 0) = false := by decide

/-! ### The encodings, bit by bit -/

/-- The words of R60: OP in bits 3:0, B in bit 4. -/
theorem test_decode_commands :
    decodeCommand 0b00000#32 = .nop ∧ decodeCommand 0b00001#32 = .encode ∧ decodeCommand 0b00010#32 = .padsplit ∧
    decodeCommand 0b00011#32 = .interleave ∧ decodeCommand 0b00100#32 = .corrupt ∧
    decodeCommand 0b00101#32 = .deinterleave ∧ decodeCommand 0b10101#32 = .deinterleaveB ∧
    decodeCommand 0b00110#32 = .decode ∧ decodeCommand 0b00111#32 = .run ∧ decodeCommand 0b10111#32 = .runB ∧
    decodeCommand 0b01000#32 = .clear := by decide

/-- The reserved opcodes of R62. -/
theorem test_decode_reserved_opcodes :
    decodeCommand 0b1001#32 = .reservedOp9 ∧ decodeCommand 0b1010#32 = .reservedOpAB 0xA ∧
    decodeCommand 0b1011#32 = .reservedOpAB 0xB ∧ decodeCommand 0b1100#32 = .reservedOpCF 0xC ∧
    decodeCommand 0b1111#32 = .reservedOpCF 0xF := by decide

/-- The writes of R56: bit 8 is 1, bits 7:0 the offset. -/
theorem test_decode_writes :
    decode (.access 0b100000000#9 7) = .ok (.wrCmd 7) ∧ decode (.access 0b100000100#9 7) = .ok (.wrStatus 7) ∧
    decode (.access 0b100001000#9 7) = .ok (.wrN 7) ∧ decode (.access 0b100001100#9 7) = .ok (.wrM 7) ∧
    decode (.access 0b100010000#9 7) = .ok (.wrT 7) ∧ decode (.access 0b100010100#9 7) = .ok (.wrFrameIn 7) ∧
    decode (.access 0b100011000#9 7) = .ok (.wrRdSel 7) ∧ decode (.access 0b100011100#9 7) = .ok (.wrRdIdx 7) ∧
    decode (.access 0b100100000#9 7) = .ok (.wrRdData 7) ∧ decode (.access 0b100100100#9 7) = .ok (.wrRdLen 7) ∧
    decode (.access 0b100101000#9 7) = .ok (.wrCapFrame 7) ∧ decode (.access 0b100101100#9 7) = .ok (.wrCapBuf 7) := by
  decide

/-- The reads of R56: bit 8 is 0. -/
theorem test_decode_reads :
    decode (.access 0b000000000#9 0) = .ok .rdCmd ∧ decode (.access 0b000000100#9 0) = .ok .rdStatus ∧
    decode (.access 0b000001000#9 0) = .ok .rdN ∧ decode (.access 0b000001100#9 0) = .ok .rdM ∧
    decode (.access 0b000010000#9 0) = .ok .rdT ∧ decode (.access 0b000010100#9 0) = .ok .rdFrameIn ∧
    decode (.access 0b000011000#9 0) = .ok .rdRdSel ∧ decode (.access 0b000011100#9 0) = .ok .rdRdIdx ∧
    decode (.access 0b000100000#9 0) = .ok .rdRdData ∧ decode (.access 0b000100100#9 0) = .ok .rdRdLen ∧
    decode (.access 0b000101000#9 0) = .ok .rdCapFrame ∧ decode (.access 0b000101100#9 0) = .ok .rdCapBuf := by decide

/-- The reserved offsets of R89, both ends of each block of the table. -/
theorem test_decode_reserved_offsets :
    decode (.access 0b000110000#9 0) = .ok (.rdReserved30 0x30) ∧ decode (.access 0b000111100#9 0) = .ok (.rdReserved30 0x3C) ∧
    decode (.access 0b001000000#9 0) = .ok (.rdReserved40 0x40) ∧ decode (.access 0b001111100#9 0) = .ok (.rdReserved40 0x7C) ∧
    decode (.access 0b010000000#9 0) = .ok (.rdReserved80 0x80) ∧ decode (.access 0b011111100#9 0) = .ok (.rdReserved80 0xFC) ∧
    decode (.access 0b100110000#9 7) = .ok (.wrReserved30 0x30 7) ∧
    decode (.access 0b101111100#9 7) = .ok (.wrReserved40 0x7C 7) ∧
    decode (.access 0b111111100#9 7) = .ok (.wrReserved80 0xFC 7) := by decide

/-- R42: an offset that is no multiple of 4 is no access. -/
theorem test_decode_misaligned :
    decode (.access 0b000000001#9 0) = .error .misaligned ∧ decode (.access 0b100001010#9 7) = .error .misaligned := by decide

/-- Bits 31:5 of a command word are ignored (R59). -/
theorem test_decode_ignored_bits : decodeCommand 0xFFFFFFE7 = .run ∧ decodeCommand 0xFFFFFFF1 = .encode := by decide

/-- The table's numbering, both widths of a command row and both of an access (log 9). -/
theorem test_decodeTableWord :
    decodeTableWord 8 0x17 = some .runB ∧ decodeTableWord 32 0x00000008 = some .clear ∧
    decodeTableWord 16 0x004 = some .rdStatus ∧ decodeTableWord 16 0x108 = some (.wrN 0) ∧
    decodeTableWord 48 0x30108 = some (.wrN 3) ∧ decodeTableWord 16 0x109 = none := by decide

/-- The examples of a placed operation: what it runs as the first instruction after reset. -/
theorem test_withFetchWord_access : after (step (State.reset.withFetchWord 48 0x30108)) (·.n) = some 3 := by decide
theorem test_withFetchWord_engine : after (step (State.reset.withFetchWord 8 0x1)) (·.err) = some .invalidParameter := by decide
theorem test_withFetchWord_immediate : after (step (State.reset.withFetchWord 8 0x9)) (·.err) = some .reservedOpcode := by decide

/-! ### The datapath -/

theorem test_encode_V5 : Datapath.encode (bits [0, 1]) 4 = bits [0, 0, 0, 0, 1, 1, 1, 1] := by decide
theorem test_pad_V8 : Datapath.pad (bits [1, 1, 1, 1, 1]) 4 = bits [1, 1, 1, 1, 1, 0, 0, 0] := by decide
theorem test_interleaveGroup_V21 : Datapath.interleaveGroup (bits [1, 1, 0, 1, 0, 0]) 2 3 = bits [1, 0, 0, 1, 1, 0] := by decide
theorem test_corrupt_V29 : Datapath.corrupt (bits [0, 1, 0, 1]) 2 = bits [0, 0, 0, 0] := by decide
theorem test_corrupt_V33 : Datapath.corrupt (bits [0, 0, 0, 0, 0, 0]) 3 = bits [0, 1, 1, 0, 1, 1] := by decide
theorem test_deinterleaveGroup_V39 : Datapath.deinterleaveGroup (bits [0, 0, 0, 1, 1, 1]) 2 3 = bits [0, 1, 0, 1, 0, 1] := by decide
theorem test_decode_V43 : Datapath.decode (bits [0, 0, 1, 1]) 4 1 = bits [0] := by decide
theorem test_decode_V54 : Datapath.decode (bits [1, 0]) 3 1 = bits [0] := by decide
theorem test_decode_V53 : Datapath.decode (bits [1, 1, 0, 1]) 3 2 = bits [1, 1] := by decide

/-! ### The commands, one step each -/

/-- S1 to S4, stage by stage. -/
theorem test_encode : after (exec .encode loaded) (·.redBuf) = some (some red0) := by decide
theorem test_encode_zero_parameter :
    after (exec .encode { loaded with n := 0 }) (fun t => (t.err, t.redBuf)) = some (.invalidParameter, none) := by decide
theorem test_padsplit : after (exec .padsplit { loaded with redBuf := some red0 }) (·.padBuf) = some (some red0) := by decide
theorem test_padsplit_sequence : after (exec .padsplit loaded) (·.err) = some .sequence := by decide
theorem test_interleave : after (exec .interleave { ran with ilvBuf := none }) (·.ilvBuf) = some (some ilv0) := by decide
theorem test_interleave_invalidates :
    after (exec .interleave ran) (fun t => (t.corBuf, t.recBuf, t.decBuf, t.matched)) = some (none, none, none, false) := by decide
theorem test_corrupt : after (exec .corrupt { ran with corBuf := none }) (·.corBuf) = some (some cor0) := by decide
theorem test_deinterleave :
    after (exec .deinterleave { ran with recBuf := none }) (fun t => (t.recBuf, t.bypass)) = some (some rec0, false) := by decide
theorem test_deinterleaveB :
    after (exec .deinterleaveB { ran with corBuf := none }) (fun t => (t.recBuf, t.bypass)) = some (some red0, true) := by decide
theorem test_decode :
    after (exec .decode { ran with decBuf := none, matched := false }) (fun t => (t.decBuf, t.matched)) =
      some (some frame0, true) := by decide
/-- STATUS after RUN (R86, S4). -/
theorem test_run : after (exec .run (pending loaded 0x7 false)) (fun t => (t.decBuf, t.statusWord)) =
    some (some frame0, 0x00007F02) := by decide
/-- S5: M = 3, T = 1 puts both flips of a group into one window. -/
theorem test_run_mismatch : after (exec .run { loaded with t := 1 }) (fun t => (t.decBuf, t.matched)) =
    some (some (bits [1, 0, 0, 1]), false) := by decide
theorem test_runB : after (exec .runB loaded) (fun t => (t.corBuf, t.decBuf, t.bypass)) =
    some (none, some frame0, true) := by decide
theorem test_nop : after (exec .nop ran) (fun t => decide (t = ran)) = some true := by decide
theorem test_clear : after (exec .clear { ran with err := .sequence }) (fun t => (t.frame, t.n, t.statusWord)) =
    some ([], 3, 0x00000100) := by decide
theorem test_reservedOp9 : after (exec .reservedOp9 base) (·.err) = some .reservedOpcode := by decide
theorem test_reservedOpAB : after (exec (.reservedOpAB 0xB) { base with err := .capacity }) (·.err) = some .capacity := by decide
theorem test_reservedOpCF : after (exec (.reservedOpCF 0xC) { base with busy := true }) (·.err) = some .busyViolation := by decide

/-! ### The register accesses, one step each -/

/-- The example of R70. -/
theorem test_wrCmd : after (exec (.wrCmd 0x7) { base with n := 3, m := 3, t := 2 })
    (fun t => (t.pendOp, t.pendB, t.statusWord)) = some (0x7, false, 0x00000101) := by decide
theorem test_wrCmd_refused : after (exec (.wrCmd 0x7) { loaded with err := .sequence }) (fun t => (t.busy, t.err)) =
    some (false, .sequence) := by decide
theorem test_rdStatus : after (exec .rdStatus ran) (·.readData) = some (some 0x00007F02) := by decide
theorem test_wrN : after (exec (.wrN 3) ran) (fun t => (t.n, t.redBuf, t.matched)) = some (3, none, false) := by decide
theorem test_rdN : after (exec .rdN { base with n := 0xFFFFFFFF }) (·.readData) = some (some 0xFFFFFFFF) := by decide
theorem test_wrM : after (exec (.wrM 3) base) (fun t => (t.m, t.n)) = some (3, 0) := by decide
theorem test_rdM : after (exec .rdM base) (·.readData) = some (some 0) := by decide
theorem test_wrT : after (exec (.wrT 2) { base with busy := true }) (fun t => (t.t, t.err)) = some (0, .busyViolation) := by decide
theorem test_rdT : after (exec .rdT loaded) (·.readData) = some (some 2) := by decide
/-- Bits 31:8 are ignored (R77). -/
theorem test_wrFrameIn : after (exec (.wrFrameIn 0x00000131) loaded) (·.frame) = some (bits [0, 1, 1, 0, 1]) := by decide
/-- The example of R77. -/
theorem test_wrFrameIn_invalid : after (exec (.wrFrameIn 0x32) loaded) (fun t => (t.err, t.frame)) =
    some (.invalidFrame, frame0) := by decide
/-- The example of R78. -/
theorem test_wrRdSel : after (exec (.wrRdSel 0x0B) base) (·.rdSel) = some 3 := by decide
theorem test_rdRdSel : after (exec .rdRdSel { base with rdSel := 7 }) (·.readData) = some (some 7) := by decide
theorem test_wrRdIdx : after (exec (.wrRdIdx 5) { base with busy := true }) (fun t => (t.rdIdx, t.err)) = some (5, .noError) := by
  decide
theorem test_rdRdIdx : after (exec .rdRdIdx { base with rdIdx := 9 }) (·.readData) = some (some 9) := by decide
/-- The example of R82. -/
theorem test_rdRdData : after (exec .rdRdData { loaded with rdIdx := 1 }) (·.readData) = some (some 0x31) := by decide
theorem test_rdRdData_out_of_range : after (exec .rdRdData { loaded with rdIdx := 4 }) (·.readData) = some (some 0) := by decide
/-- The examples of R83. -/
theorem test_rdRdLen : after (exec .rdRdLen { ran with rdSel := 2 }) (·.readData) = some (some 12) := by decide
theorem test_rdRdLen_dec : after (exec .rdRdLen { ran with rdSel := 6 }) (·.readData) = some (some 4) := by decide
/-- The examples of R84 and R85. -/
theorem test_rdCapFrame : after (exec .rdCapFrame base) (·.readData) = some (some 0x00000400) := by decide
theorem test_rdCapBuf : after (exec .rdCapBuf base) (·.readData) = some (some 0x00002000) := by decide
theorem test_ignored_writes :
    ∀ i ∈ [Instr.wrStatus 0xFFFFFFFF, .wrRdData 1, .wrRdLen 1, .wrCapFrame 1, .wrCapBuf 1, .wrReserved30 0x30 1,
        .wrReserved40 0x40 1, .wrReserved80 0x80 1], after (exec i ran) (fun t => decide (t = ran)) = some true := by decide
theorem test_zero_reads :
    ∀ i ∈ [Instr.rdCmd, .rdFrameIn, .rdReserved30 0x30, .rdReserved40 0x40, .rdReserved80 0x80],
      after (exec i ran) (·.readData) = some (some 0) := by decide

/-! ### Steps -/

theorem test_step_host : after (step (writing base 0x08 3)) (fun t => (t.n, t.inputs)) = some (3, []) := by decide
theorem test_step_engine : after (step (pending loaded 0x1 false)) (fun t => (t.redBuf, t.busy)) = some (some red0, false) := by
  decide
theorem test_step_reset : after (step { pending ran 0x7 true with wait := 1, inputs := [.reset] })
    (fun t => (t.n, t.frame, t.busy, t.pendOp, t.cfg.capBuf)) = some (0, [], false, 0, 8192) := by decide
theorem test_step_misaligned : stopsWith (step (reading base 0x05)) = some .misalignedAccess := by decide
theorem test_step_outside : stopsWith (step (reading base 0x100)) = some .outsideWindow := by decide
theorem test_step_width :
    stopsWith (step { base with inputs := [.access { dir := .read, off := 0, width := 16, data := 0 }] }) = some .accessWidth := by
  decide
/-- R38: the window starts at BASE_ADDR. -/
theorem test_busAccess :
    (busAccess base.cfg .read 0x4004 32 0).map (·.off) = some 4 ∧ busAccess base.cfg .read 0x4100 32 0 = none := by decide

/-! ### A witness of the hypotheses of each statement, each clause at a boundary -/

theorem witness_DecodeInvertsEncode :
    Instr.WellFormed (.reservedOpAB 0xB) = true ∧ Instr.WellFormed (.reservedOpCF 0xF) = true ∧
    Instr.WellFormed (.rdReserved30 0x3C) = true ∧ Instr.WellFormed (.rdReserved40 0x7C) = true ∧
    Instr.WellFormed (.rdReserved80 0xFC) = true ∧ Instr.WellFormed (.wrReserved30 0x30 7) = true ∧
    Instr.WellFormed (.wrReserved40 0x40 7) = true ∧ Instr.WellFormed (.wrReserved80 0x80 7) = true ∧
    Instr.WellFormed (.wrN 7) = true := by decide

theorem witness_EveryAlignedAccessIsOneOperation :
    (0x00#8).toNat % 4 = 0 ∧ (0xFC#8).toNat % 4 = 0 ∧ (0x01#8).toNat % 4 ≠ 0 ∧ (0xFF#8).toNat % 4 ≠ 0 := by decide

theorem witness_EveryCommandWordIsOneCommand :
    ((0x15#32).extractLsb' 0 4 = 0x5#4 ∨ (0x15#32).extractLsb' 0 4 = 0x7#4) ∧
    (0xFFFFFFF5#32).extractLsb' 0 5 = (0x15#32).extractLsb' 0 5 ∧
    (0x16#32).extractLsb' 0 4 = (0x06#32).extractLsb' 0 4 ∧ (0x06#32).extractLsb' 0 4 ≠ 0x5#4 ∧
    (0x06#32).extractLsb' 0 4 ≠ 0x7#4 := by decide

theorem witness_StepRunsDecodedOperation_host :
    let s := { writing (pending loaded 0x7 false) 0xFC 3 with wait := 1 }
    s.inputs = .access { dir := .write, off := 0xFC, width := 32, data := 3 } :: [] ∧ ¬ (s.busy = true ∧ s.wait = 0) ∧
    decode (.access (accessKey .write (BitVec.ofNat 8 0xFC)) 3) = .ok (.wrReserved80 0xFC 3) := by decide

theorem witness_StepRunsDecodedOperation_engine :
    let s := pending loaded 0x7 true
    let t := writing (pending loaded 0x1 false) 0x08 3
    (s.busy = true ∧ (s.inputs = [] ∨ s.wait = 0) ∧ 1 ≤ s.pendOp.toNat ∧ s.pendOp.toNat ≤ 7) ∧
    (t.busy = true ∧ (t.inputs = [] ∨ t.wait = 0) ∧ 1 ≤ t.pendOp.toNat ∧ t.pendOp.toNat ≤ 7) := by decide

theorem witness_IllegalAccessIsStuck :
    ({ base with inputs := [.access ⟨.read, 0x00, 31, 0⟩] } : State).inputs = .access ⟨.read, 0x00, 31, 0⟩ :: [] ∧
    ¬ (base.busy = true ∧ base.wait = 0) ∧
    (reading base 256).inputs = .access ⟨.read, 256, 32, 0⟩ :: [] ∧
    (reading base 255).inputs = .access ⟨.read, 255, 32, 0⟩ :: [] ∧ 255 < 256 ∧ 255 % 4 ≠ 0 := by decide

theorem witness_ResetInputResetsBlock :
    let s := { pending ran 0x7 true with wait := 1, inputs := [.reset] }
    s.inputs = .reset :: [] ∧ ¬ (s.busy = true ∧ s.wait = 0) := by decide

theorem witness_IdleBlockWaits : ran.RunEnded := by decide

theorem witness_ParameterWritesInvalidate : ran.busy = false ∧ (pending ran 0x7 false).busy = true := by decide

theorem witness_BusyViolation :
    (pending loaded 0x7 false).busy = true ∧
    Instr.reservedOpCF 0xF ∈ [Instr.wrCmd 0, .wrN 0, .wrM 0, .wrT 0, .wrFrameIn 0, .nop, .clear, .reservedOp9,
      .reservedOpAB 0xF, .reservedOpCF 0xF] := by decide

theorem witness_FrameInAppends :
    let full := { loaded with cfg := ⟨0, 4, 1⟩ }
    let room := { loaded with cfg := ⟨0, 5, 1⟩ }
    (pending loaded 0x7 false).busy = true ∧
    (loaded.busy = false ∧ loaded.err = .noError ∧ { loaded with err := .capacity }.err ≠ .noError) ∧
    ((0x2F#32).extractLsb' 0 8 ≠ 0x30#8 ∧ (0x32#32).extractLsb' 0 8 ≠ 0x31#8) ∧
    (0x131#32).extractLsb' 0 8 = (if true then 0x31#8 else 0x30#8) ∧
    (0x30#32).extractLsb' 0 8 = (if false then 0x31#8 else 0x30#8) ∧
    (full.busy = false ∧ full.err = .noError ∧ full.frame.length = full.cfg.capFrame) ∧
    (room.busy = false ∧ room.err = .noError ∧ room.frame.length ≠ room.cfg.capFrame) := by decide

theorem witness_DataRead :
    (ran.busy = false ∧ { ran with rdSel := 7 }.bufAt 7 = none ∧ loaded.bufAt 6 = none) ∧
    ({ ran with rdIdx := 4 }.bufAt 0 = some frame0 ∧ frame0.length ≤ (4#32).toNat) ∧
    frame0[(3#32).toNat]? = some false ∧ frame0[(2#32).toNat]? = some true ∧
    (pending ran 0x7 false).busy = true := by decide

theorem witness_LengthRead :
    (ran.busy = false ∧ { ran with rdSel := 7 }.bufAt 7 = none) ∧
    ({ ran with rdSel := 2 }.bufAt 2 = some red0 ∧ red0.length < 2 ^ 32) ∧ (pending ran 0x7 false).busy = true := by decide

theorem witness_CapacityReads : Params.Legal ⟨0x4000, 1, 2 ^ 32 - 1⟩ ∧ Params.Legal ⟨0, 2 ^ 32 - 1, 1⟩ := by decide

theorem witness_LanesAreLittleEndian : 3 < 4 ∧ 7 < 8 := by decide

theorem witness_CommandWriteStarts :
    (pending ran 0x7 false).busy = true ∧ ran.busy = false ∧ ran.err = .noError ∧ { ran with err := .sequence }.err ≠ .noError ∧
    9 ≤ ((0x9#32).extractLsb' 0 4).toNat ∧ 9 ≤ ((0xF#32).extractLsb' 0 4).toNat ∧
    ((0x10#32).extractLsb' 0 4).toNat = 0 ∧ ((0x8#32).extractLsb' 0 4).toNat = 8 ∧
    (1 ≤ ((0x1#32).extractLsb' 0 4).toNat ∧ ((0x1#32).extractLsb' 0 4).toNat ≤ 7) ∧
    (1 ≤ ((0x17#32).extractLsb' 0 4).toNat ∧ ((0x17#32).extractLsb' 0 4).toNat ≤ 7) := by decide

theorem witness_ImmediateCommands :
    (0xFFFFFFF0#32).extractLsb' 0 4 = 0x0#4 ∧ (0x18#32).extractLsb' 0 4 = 0x8#4 ∧
    { ran with err := .sequence }.busy = false ∧ (pending ran 0x7 false).busy = true := by decide

theorem witness_CommandWritePerformsImmediate :
    ((0x0#32).extractLsb' 0 4).toNat = 0 ∧ 8 ≤ ((0x8#32).extractLsb' 0 4).toNat ∧
    8 ≤ ((0xF#32).extractLsb' 0 4).toNat := by decide

/-- A zero parameter: the first clause of every stage command. -/
theorem witness_zero_parameter :
    ¬ { loaded with n := 0 }.ParamsOk ∧ ¬ { loaded with m := 0 }.ParamsOk ∧ ¬ { loaded with t := 0 }.ParamsOk := by decide

theorem witness_EncodeCommand :
    (0x11#32).extractLsb' 0 4 = 0x1#4 ∧ loaded.ParamsOk ∧
    { loaded with cfg := ⟨0, 4, 11⟩ }.cfg.capBuf < loaded.frame.length * loaded.n.toNat ∧
    loaded.frame.length * loaded.n.toNat ≤ { loaded with cfg := ⟨0, 4, 12⟩ }.cfg.capBuf ∧
    11 < loaded.frame.length * loaded.n.toNat := by decide

theorem witness_PadsplitCommand :
    let s := { loaded with redBuf := some (bits [1, 1, 1, 1, 1]), m := 2 }
    (0x12#32).extractLsb' 0 4 = 0x2#4 ∧ s.ParamsOk ∧ (loaded.ParamsOk ∧ loaded.redBuf = none) ∧
    s.redBuf = some (bits [1, 1, 1, 1, 1]) ∧ (s.m.toNat * s.t.toNat) ∣ 8 ∧ (bits [1, 1, 1, 1, 1]).length ≤ 8 ∧
    8 < (bits [1, 1, 1, 1, 1]).length + s.m.toNat * s.t.toNat ∧
    { s with cfg := ⟨0, 4, 7⟩ }.cfg.capBuf < 8 ∧ 8 ≤ { s with cfg := ⟨0, 4, 8⟩ }.cfg.capBuf := by decide

theorem witness_InterleaveCommand :
    (0x13#32).extractLsb' 0 4 = 0x3#4 ∧ (loaded.ParamsOk ∧ loaded.padBuf = none) ∧
    (ran.ParamsOk ∧ ran.padBuf = some red0 ∧ red0.length % (ran.m.toNat * ran.t.toNat) = 0) ∧
    (let s := { ran with padBuf := some frame0 };
      s.padBuf = some frame0 ∧ frame0.length % (s.m.toNat * s.t.toNat) ≠ 0) ∧
    2 < ran.m.toNat ∧ 1 < ran.t.toNat ∧ (1 + 1) * (ran.m.toNat * ran.t.toNat) ≤ red0.length := by decide

theorem witness_CorruptCommand :
    (0x14#32).extractLsb' 0 4 = 0x4#4 ∧ (loaded.ParamsOk ∧ loaded.ilvBuf = none) ∧
    (ran.ParamsOk ∧ ran.ilvBuf = some ilv0 ∧ ilv0.length % (ran.m.toNat * ran.t.toNat) = 0) ∧ 11 < ilv0.length ∧
    (let s := { ran with ilvBuf := some frame0 };
      s.ilvBuf = some frame0 ∧ frame0.length % (s.m.toNat * s.t.toNat) ≠ 0) := by decide

theorem witness_DeinterleaveCommand :
    (0x15#32).extractLsb' 0 4 = 0x5#4 ∧ Instr.deinterleaveB = (if true then .deinterleaveB else .deinterleave) ∧
    Instr.deinterleave = (if false then .deinterleaveB else .deinterleave) ∧
    (loaded.ParamsOk ∧ (if false then loaded.ilvBuf else loaded.corBuf) = none) ∧
    (ran.ParamsOk ∧ (if false then ran.ilvBuf else ran.corBuf) = some cor0 ∧
      (if true then ran.ilvBuf else ran.corBuf) = some ilv0 ∧ cor0.length % (ran.m.toNat * ran.t.toNat) = 0) ∧
    (let s := { ran with corBuf := some frame0 };
      s.corBuf = some frame0 ∧ frame0.length % (s.m.toNat * s.t.toNat) ≠ 0) ∧
    1 < ran.t.toNat ∧ 2 < ran.m.toNat ∧ (1 + 1) * (ran.m.toNat * ran.t.toNat) ≤ cor0.length := by decide

theorem witness_DecodeCommand :
    (0x16#32).extractLsb' 0 4 = 0x6#4 ∧ (loaded.ParamsOk ∧ loaded.recBuf = none) ∧
    (ran.ParamsOk ∧ ran.recBuf = some rec0 ∧ ran.frame.length * ran.n.toNat ≤ rec0.length) ∧ 3 < ran.frame.length ∧
    (let s := { ran with recBuf := some (rec0.take 11) };
      s.recBuf = some (rec0.take 11) ∧ (rec0.take 11).length < s.frame.length * s.n.toNat) := by decide

theorem witness_RunCommand :
    (0x17#32).extractLsb' 0 4 = 0x7#4 ∧ Instr.runB = (if true then .runB else .run) ∧
    Instr.run = (if false then .runB else .run) ∧ loaded.ParamsOk ∧
    { loaded with cfg := ⟨0, 4, 11⟩ }.cfg.capBuf < loaded.frame.length * loaded.n.toNat ∧
    (let s := { loaded with m := 4, cfg := ⟨0, 4, 15⟩ };
      s.ParamsOk ∧ s.cfg.capBuf < Datapath.roundUp (s.frame.length * s.n.toNat) (s.m.toNat * s.t.toNat)) ∧
    (let s := { loaded with m := 4, cfg := ⟨0, 4, 16⟩ };
      s.ParamsOk ∧ s.frame.length * s.n.toNat ≤ s.cfg.capBuf ∧
        Datapath.roundUp (s.frame.length * s.n.toNat) (s.m.toNat * s.t.toNat) ≤ s.cfg.capBuf) := by decide

theorem witness_RunEqualsStageSequence :
    loaded.err = .noError ∧ (∃ t, exec .run loaded = .next t ∧ t.err = .noError) ∧
    (∃ t, exec .runB loaded = .next t ∧ t.err = .noError) :=
  ⟨by decide, reaches _ (by decide), reaches _ (by decide)⟩

theorem witness_RunFailsAsFirstFailingStage :
    loaded.err = .noError ∧ (∃ t, exec .run { loaded with n := 0 } = .next t ∧ t.err ≠ .noError) ∧
    (∃ t, exec .runB { loaded with cfg := ⟨0, 4, 11⟩ } = .next t ∧ t.err ≠ .noError) ∧
    (∃ t, exec .run { loaded with m := 4, cfg := ⟨0, 4, 15⟩ } = .next t ∧ t.err ≠ .noError) :=
  ⟨by decide, reaches _ (by decide), reaches _ (by decide), reaches _ (by decide)⟩

theorem witness_RoundTripWithoutChannel :
    let s := { loaded with m := 4, cfg := ⟨0, 4, 16⟩ }
    s.ParamsOk ∧ s.frame.length * s.n.toNat ≤ s.cfg.capBuf ∧
      Datapath.roundUp (s.frame.length * s.n.toNat) (s.m.toNat * s.t.toNat) ≤ s.cfg.capBuf := by decide

/-- The state after RUN on "0110" is coherent, every buffer valid. -/
theorem ran_coherent : ran.Coherent :=
  { cfgLegal := by decide, frameFits := by decide, redHolds := by decide, padHolds := by decide, ilvHolds := by decide
    corHolds := by decide, recHolds := by decide, decHolds := by decide, redParams := by decide, redFits := by decide
    padFits := by decide, padRed := by decide, ilvPad := by decide, corIlv := by decide, recIlv := by decide
    recCor := by decide, decRec := by decide, matchSays := by decide, bypassSays := by decide, latchLegal := by decide
    noMismatch := by decide }

/-- The same with a command pending. -/
theorem pending_coherent : (pending ran 0x7 true).Coherent :=
  { cfgLegal := by decide, frameFits := by decide, redHolds := by decide, padHolds := by decide, ilvHolds := by decide
    corHolds := by decide, recHolds := by decide, decHolds := by decide, redParams := by decide, redFits := by decide
    padFits := by decide, padRed := by decide, ilvPad := by decide, corIlv := by decide, recIlv := by decide
    recCor := by decide, decRec := by decide, matchSays := by decide, bypassSays := by decide, latchLegal := by decide
    noMismatch := by decide }

theorem witness_DecoderCorrectsExactly :
    ran.Coherent ∧ ran.recBuf = some rec0 ∧ ran.redBuf = some red0 ∧ 3 < ran.frame.length ∧
    ran.frame[0]? = some false ∧ ran.frame[2]? = some true ∧
    windowDiffs rec0 red0 ran.n.toNat 0 < (ran.n.toNat + 1) / 2 := ⟨ran_coherent, by decide⟩

theorem witness_ChannelFlipsLand :
    (1 ≤ 3 ∧ 1 ≤ 1 ∧ red0.length % (3 * 1) = 0 ∧ 11 < red0.length) ∧ (1 ≤ 3 ∧ 1 ≤ 2 ∧ red0.length % (3 * 2) = 0) ∧
    (1 ≤ 4 ∧ 1 ≤ 3 ∧ red0.length % (4 * 3) = 0) := by decide

theorem witness_EncoderLaws : 1 ≤ 1 ∧ frame0[3]? = some false ∧ frame0[1]? = some true := by decide

theorem witness_PadderLaws :
    let p := Datapath.pad (bits [1, 1, 1, 1, 1]) 4
    1 ≤ 4 ∧ (bits [1, 1, 1, 1, 1]).length ≤ 5 ∧ 7 < p.length ∧ bits [1, 0, 0, 0] ∈ Datapath.groups p 4 := by decide

theorem witness_InterleaverLaws :
    (1 ≤ 3 ∧ 1 ≤ 2 ∧ (bits [0, 0, 0, 1, 1, 1]).length = 3 * 2) ∧ (1 ≤ 1 ∧ 1 ≤ 3 ∧ (bits [1, 0, 1]).length = 1 * 3) ∧
    (1 ≤ 3 ∧ 1 ≤ 1 ∧ (bits [1, 0, 1]).length = 3 * 1) ∧ (2 < 3 ∧ 1 < 2 ∧ 5 < 3 * 2) ∧
    (4 + 1 < 3 * 2 ∧ (4 + 1) % 2 ≠ 0) := by decide

theorem witness_ChannelLaws :
    1 ≤ (bits [1]).length ∧ (1 ≤ 6 ∧ ilv0.length % 6 = 0 ∧ 11 < ilv0.length ∧ 3 ≤ 6) ∧ ilv0.length % 3 = 0 := by decide

theorem witness_DeinterleaveInvertsInterleave :
    1 ≤ 3 ∧ 1 ≤ 2 ∧ (bits [0, 0, 0, 1, 1, 1]).length = 3 * 2 ∧ red0.length % (3 * 2) = 0 := by decide

theorem witness_DecoderVotesEveryWindow :
    1 ≤ 3 ∧ 2 ≤ Datapath.ceilDiv (bits [1, 1, 0, 1]).length 3 ∧ 1 < 2 := by decide

theorem witness_GroupsAreIndependent : 1 ≤ 3 ∧ 1 ≤ 2 ∧ red0.length % (3 * 2) = 0 := by decide

theorem witness_StepKeepsCoherent :
    (pending ran 0x7 true).Coherent ∧
      ∃ t, step (pending ran 0x7 true) = .next t ∧ t.bypass = true ∧ t.decBuf = some frame0 :=
  ⟨pending_coherent, reaches _ (by decide)⟩

theorem witness_ReachableStatesAreCoherent :
    Params.Legal ⟨0x4000, 1024, 8192⟩ ∧
      ∃ s, Host.Core.run Sys2Proof.core 6
        { State.reset with
          cfg := ⟨0x4000, 1024, 8192⟩, inputs := setup 1 1 1 ++ load ['1'] ++ cmd 0x7, latencies := [2] } = .next s ∧
        s.decBuf = some [true] :=
  ⟨by decide, reaches (fun s => s.decBuf = some [true]) (by decide)⟩

theorem witness_BufferLengths :
    ran.Coherent ∧ ran.redBuf = some red0 ∧ ran.padBuf = some red0 ∧ ran.decBuf = some frame0 ∧
    ran.decBuf.isSome ∧ ran.recBuf.isSome ∧ ran.corBuf.isSome ∧ ran.ilvBuf.isSome ∧ ran.padBuf.isSome := ⟨ran_coherent, by decide⟩

theorem witness_DimensionMismatchUnreachable :
    ran.Coherent ∧ ∃ t, exec .interleave ran = .next t ∧ t.recBuf = none := ⟨ran_coherent, reaches _ (by decide)⟩

theorem witness_FirstErrorStands :
    let s := { writing base 0x00 0x8 with err := .sequence }
    s.err ≠ .noError ∧ (∃ t, step s = .next t ∧ t.err = .noError) ∧
    ∃ t, step { s with busy := true, wait := 1 } = .next t ∧ t.err = .sequence :=
  ⟨by decide, reaches _ (by decide), reaches _ (by decide)⟩

theorem witness_FailedCommandChangesNothing :
    let s := pending { loaded with n := 0 } 0x1 false
    s.busy = true ∧ (s.inputs = [] ∨ s.wait = 0) ∧ s.err = .noError ∧ ∃ t, step s = .next t ∧ t.err ≠ .noError :=
  ⟨by decide, by decide, by decide, reaches _ (by decide)⟩

theorem witness_BusyProtectsTheCommand :
    let s := { writing (pending ran 0x7 false) 0x08 5 with wait := 1 }
    s.busy = true ∧ s.wait ≠ 0 ∧
    s.inputs = .access { dir := .write, off := 0x08, width := 32, data := 5 } :: [] ∧
    ∃ t, step s = .next t ∧ t.err = .busyViolation :=
  ⟨by decide, by decide, by decide, reaches _ (by decide)⟩

theorem witness_ReadsHaveNoSideEffects :
    Instr.rdReserved80 0x80 ∈ [Instr.rdStatus, .rdN, .rdM, .rdT, .rdRdSel, .rdRdIdx, .rdRdData, .rdRdLen, .rdCapFrame,
      .rdCapBuf, .rdCmd, .rdFrameIn, .rdReserved30 0x80, .rdReserved40 0x80, .rdReserved80 0x80] ∧ ran.busy = false := by decide

theorem witness_OnlyCommandWritesSetBusy :
    let s := writing loaded 0x00 0x15
    s.busy = false ∧ ∃ t, step s = .next t ∧ t.busy = true := ⟨by decide, reaches _ (by decide)⟩

theorem witness_FrameChangesOnlyBy :
    (∃ t, step (writing loaded 0x14 0x30) = .next t ∧ t.frame ≠ loaded.frame) ∧
    (∃ t, step (writing loaded 0x00 0x8) = .next t ∧ t.frame ≠ loaded.frame) ∧
    (∃ t, step { loaded with inputs := [.reset] } = .next t ∧ t.frame ≠ loaded.frame) :=
  ⟨reaches _ (by decide), reaches _ (by decide), reaches _ (by decide)⟩

theorem witness_ChangedInputsInvalidateResults :
    (∃ t, step (writing ran 0x08 5) = .next t ∧ t.n ≠ ran.n) ∧ (∃ t, step (writing ran 0x0C 5) = .next t ∧ t.m ≠ ran.m) ∧
    (∃ t, step (writing ran 0x10 5) = .next t ∧ t.t ≠ ran.t) ∧
    (∃ t, step (writing ran 0x14 0x31) = .next t ∧ t.frame ≠ ran.frame) :=
  ⟨reaches _ (by decide), reaches _ (by decide), reaches _ (by decide), reaches _ (by decide)⟩

theorem witness_ReadPortAndParametersKept :
    (∃ t, step (writing ran 0x18 7) = .next t ∧ t.rdSel ≠ ran.rdSel) ∧
    (∃ t, step (writing ran 0x1C 7) = .next t ∧ t.rdIdx ≠ ran.rdIdx) ∧
    (∃ t, step { ran with rdIdx := 3, inputs := [.reset] } = .next t ∧ t.rdIdx ≠ 3) :=
  ⟨reaches _ (by decide), reaches _ (by decide), reaches _ (by decide)⟩

theorem witness_IdleLatchIsUnobservable :
    loaded.busy = false ∧ (∃ t, step (writing loaded 0x00 0x7) = .next t ∧ t.busy = true) ∧
    ∃ t, step (reading loaded 0x08) = .next t ∧ t.readData = some 3 :=
  ⟨by decide, reaches _ (by decide), reaches _ (by decide)⟩

theorem witness_StartedCommandCompletes :
    let s := { reading (pending ran 0x1 false) 0xFC with wait := 5 }
    s.busy = true ∧ isEngineOp s.pendOp = true ∧ s.InputsLegal ∧ Input.reset ∉ s.inputs := by
  refine ⟨by decide, by decide, fun i hi => ?_, by decide⟩
  obtain rfl := List.mem_singleton.mp hi
  exact ⟨by decide, by decide, by decide⟩

theorem witness_BothOrdersAdmitted :
    (pending ran 0x7 true).busy = true ∧ isEngineOp (pending ran 0x7 true).pendOp = true ∧
    isEngineOp (pending ran 0x1 false).pendOp = true := by decide

theorem witness_PollingHostSeesOneResult :
    (pending loaded 0x7 false).busy = true ∧ isEngineOp (pending loaded 0x7 false).pendOp = true ∧ 0 ≤ 3 ∧ 3 ≤ 3 := by
  decide

end Sys2Proof.Tests
end

section
/-! The engine's turn, and that a failed command is all or nothing (R15, R46, R127). -/

namespace Sys2Proof.Machine

/-- On the engine's turn a step that answers a next state executes the engine command in the latch (R47, R118). -/
theorem step_engineTurn {s s' : State} (hb : s.busy = true) (hw : s.inputs = [] ∨ s.wait = 0)
    (h : step s = .next s') :
    isEngineOp s.pendOp = true ∧ exec (commandOf s.pendOp s.pendB) s = .next s' := by
  have noInput : ∀ {i rest}, s.inputs = i :: rest → ¬ (s.busy = true ∧ s.wait = 0) → False := by
    intro i rest hi hturn
    rcases hw with hnil | hwait
    · simp [hnil] at hi
    · exact hturn ⟨hb, hwait⟩
  rcases step_cases h with
    ⟨_, -, -, hop, rfl, he⟩ | ⟨_, _, _, hi, hturn, -⟩ | ⟨_, hi, hturn, -⟩ | ⟨hidle, -⟩
  · exact ⟨hop, he⟩
  · exact (noInput hi hturn).elim
  · exact (noInput hi hturn).elim
  · simp [hb] at hidle

/-- Settles O50: an engine step either records an error, and is then `afterError`, or writes results and leaves ERR alone
(`engine_step`). -/
theorem failedCommandChangesNothing : Obligations.FailedCommandChangesNothing := by
  intro s s' hb hw hnoError h herr
  obtain ⟨hop, he⟩ := step_engineTurn hb hw h
  rcases engine_step hop he with ⟨c, rfl⟩ | ⟨_, _, _, _, _, _, _, _, rfl⟩
  · rfl
  · exact absurd hnoError herr

end Sys2Proof.Machine
end

section
/-! The pipeline's buffers: the lengths of what the stages make of FRAME, N, M and T (R25), and how the invariant
`State.Coherent` is kept by an invalidation (R37) and by writing one buffer. -/

namespace Sys2Proof.Machine

/-! ### Lengths of what the stages make (R25) -/

theorem Datapath.length_encode (f : Bits) (n : Nat) : (Datapath.encode f n).length = f.length * n := by
  induction f with
  | nil => simp [Datapath.encode]
  | cons b f ih => rw [Datapath.encode_cons, List.length_append, ih]; simp; ring

theorem State.ParamsOk.one_le_groupSize {s : State} (h : s.ParamsOk) : 1 ≤ s.groupSize := by
  obtain ⟨-, hm, ht⟩ := h
  exact Nat.mul_pos hm ht

theorem State.length_expRed (s : State) : s.expRed.length = s.frame.length * s.n.toNat :=
  Datapath.length_encode _ _

theorem State.ParamsOk.length_expPad {s : State} (h : s.ParamsOk) :
    s.expPad.length = Datapath.roundUp (s.frame.length * s.n.toNat) s.groupSize := by
  rw [State.expPad, Datapath.length_pad_eq _ h.one_le_groupSize, s.length_expRed]

/-- The padder's result is made of whole groups. -/
theorem State.ParamsOk.expPad_mod {s : State} (h : s.ParamsOk) : s.expPad.length % s.groupSize = 0 := by
  rw [h.length_expPad]
  exact Nat.mod_eq_zero_of_dvd (Datapath.dvd_roundUp _ _)

theorem State.ParamsOk.length_expIlv {s : State} (h : s.ParamsOk) : s.expIlv.length = s.expPad.length :=
  Datapath.length_interleave h.expPad_mod

theorem State.ParamsOk.expIlv_mod {s : State} (h : s.ParamsOk) : s.expIlv.length % s.groupSize = 0 := by
  rw [h.length_expIlv, h.expPad_mod]

theorem State.ParamsOk.length_expCor {s : State} (h : s.ParamsOk) : s.expCor.length = s.expPad.length := by
  rw [State.expCor, Datapath.length_corrupt h.expIlv_mod, h.length_expIlv]

/-- What DEINTERLEAVE reads, with or without the channel, is as long as PAD. -/
theorem State.ParamsOk.length_expSource {s : State} (h : s.ParamsOk) (b : Bool) :
    (if b then s.expIlv else s.expCor).length = s.expPad.length := by
  cases b
  · exact h.length_expCor
  · exact h.length_expIlv

theorem State.ParamsOk.length_expRec {s : State} (h : s.ParamsOk) : s.expRec.length = s.expPad.length := by
  have hsource := h.length_expSource s.bypass
  rw [State.expRec, Datapath.length_deinterleave (by rw [hsource]; exact h.expPad_mod), hsource]

/-- REC has a bit for every vote of DECODE (R126). -/
theorem State.ParamsOk.le_length_expRec {s : State} (h : s.ParamsOk) :
    s.frame.length * s.n.toNat ≤ s.expRec.length := by
  rw [h.length_expRec, h.length_expPad]
  exact Datapath.le_roundUp _ h.one_le_groupSize

theorem State.ParamsOk.length_expDec {s : State} (h : s.ParamsOk) : s.expDec.length = s.frame.length := by
  have hn : 0 < s.n.toNat := h.1
  have hvotes : s.frame.length ≤ Datapath.ceilDiv s.expRec.length s.n.toNat := by
    have hbits := h.le_length_expRec
    rw [Datapath.ceilDiv, Nat.le_div_iff_mul_le hn]
    omega
  rw [State.expDec, Datapath.length_decode, Nat.min_eq_left hvotes]

/-- A valid buffer of a coherent state holds the stage's result. -/
theorem Holds.eq_of_some {b : Option Bits} {x y : Bits} (h : Holds b x) (hb : b = some y) : y = x := by
  rcases h with h | h
  · simp [h] at hb
  · simpa [h, eq_comm] using hb

/-! ### Which components the invariant reads -/

/-- The part of the state that the pipeline works on, everything else at its value after reset. -/
def State.pipeline (s : State) : State :=
  { State.reset with
    n := s.n, m := s.m, t := s.t, frame := s.frame
    redBuf := s.redBuf, padBuf := s.padBuf, ilvBuf := s.ilvBuf
    corBuf := s.corBuf, recBuf := s.recBuf, decBuf := s.decBuf
    matched := s.matched, bypass := s.bypass, cfg := s.cfg }

/-- The invariant reads the pipeline's part of the state, the latch of a busy engine, and ERR. -/
theorem State.coherent_iff (s : State) :
    s.Coherent ↔
      s.pipeline.Coherent ∧ (s.busy = true → isEngineOp s.pendOp = true) ∧ s.err ≠ .dimensionMismatch := by
  constructor
  · intro h
    exact ⟨{ h with latchLegal := nofun, noMismatch := nofun }, h.latchLegal, h.noMismatch⟩
  · rintro ⟨h, hlatch, herr⟩
    exact { h with latchLegal := hlatch, noMismatch := herr }

theorem State.Coherent.of_pipeline_eq {s s' : State} (h : s.Coherent) (hp : s'.pipeline = s.pipeline)
    (hlatch : s'.busy = true → isEngineOp s'.pendOp = true) (herr : s'.err ≠ .dimensionMismatch) : s'.Coherent :=
  s'.coherent_iff.mpr ⟨hp ▸ (s.coherent_iff.mp h).1, hlatch, herr⟩

theorem State.Coherent.recordError {s : State} (h : s.Coherent) {c : ErrorCode} (hc : c ≠ .dimensionMismatch) :
    (s.recordError c).Coherent := by
  refine h.of_pipeline_eq rfl h.latchLegal ?_
  rw [State.recordError_err]
  split
  · exact hc
  · exact h.noMismatch

/-! ### Invalidation (R37) -/

/-- With every derived buffer invalid, nothing is claimed of the results. -/
theorem State.coherent_invalidateFrom_FRAME {s : State} (hcfg : s.cfg.Legal)
    (hframe : s.frame.length ≤ s.cfg.capFrame) (hlatch : s.busy = true → isEngineOp s.pendOp = true)
    (herr : s.err ≠ .dimensionMismatch) : (s.invalidateFrom .FRAME).Coherent where
  cfgLegal := hcfg
  frameFits := hframe
  redHolds := .inl rfl
  padHolds := .inl rfl
  ilvHolds := .inl rfl
  corHolds := .inl rfl
  recHolds := .inl rfl
  decHolds := .inl rfl
  redParams := absurd rfl
  redFits := absurd rfl
  padFits := absurd rfl
  padRed := absurd rfl
  ilvPad := absurd rfl
  corIlv := absurd rfl
  recIlv := absurd rfl
  recCor := absurd rfl
  decRec := absurd rfl
  matchSays := ⟨nofun, nofun⟩
  bypassSays _ := rfl
  latchLegal := hlatch
  noMismatch := herr

/-- Invalidating everything downstream of a buffer keeps the invariant, case by case down the pipeline. -/
theorem State.Coherent.invalidateFrom {s : State} (h : s.Coherent) (x : BufferId) : (s.invalidateFrom x).Coherent := by
  have hDec : (s.invalidateFrom .REC).Coherent :=
    { h with decHolds := .inl rfl, decRec := absurd rfl, matchSays := ⟨nofun, nofun⟩ }
  have hRec : (s.invalidateFrom .COR).Coherent :=
    { hDec with
      recHolds := .inl rfl, decHolds := .inl rfl, recIlv := absurd rfl, recCor := absurd rfl, decRec := absurd rfl
      bypassSays := fun _ => rfl }
  have hCor : (s.invalidateFrom .ILV).Coherent :=
    { hRec with corHolds := .inl rfl, corIlv := absurd rfl, recCor := absurd rfl }
  have hIlv : (s.invalidateFrom .PAD).Coherent :=
    { hCor with ilvHolds := .inl rfl, ilvPad := absurd rfl, corIlv := absurd rfl, recIlv := absurd rfl }
  have hPad : (s.invalidateFrom .RED).Coherent :=
    { hIlv with padHolds := .inl rfl, padFits := absurd rfl, padRed := absurd rfl, ilvPad := absurd rfl }
  cases x with
  | FRAME => exact State.coherent_invalidateFrom_FRAME h.cfgLegal h.frameFits h.latchLegal h.noMismatch
  | RED => exact hPad
  | PAD => exact hIlv
  | ILV => exact hCor
  | COR => exact hRec
  | REC => exact hDec
  | DEC => exact h

/-! ### Writing one buffer: the result of the stage, everything downstream of it invalid -/

theorem State.Coherent.writeRed {s : State} (h : s.Coherent) (hp : s.ParamsOk)
    (hfits : s.expRed.length ≤ s.cfg.capBuf) :
    { s.invalidateFrom .RED with redBuf := some s.expRed }.Coherent :=
  { h.invalidateFrom .RED with
    redHolds := .inr rfl, redParams := fun _ => hp, redFits := fun _ => hfits, padRed := absurd rfl }

theorem State.Coherent.writePad {s : State} (h : s.Coherent) (hred : s.redBuf ≠ none)
    (hfits : s.expPad.length ≤ s.cfg.capBuf) :
    { s.invalidateFrom .PAD with padBuf := some s.expPad }.Coherent :=
  { h.invalidateFrom .PAD with
    padHolds := .inr rfl, padFits := fun _ => hfits, padRed := fun _ => hred, ilvPad := absurd rfl }

theorem State.Coherent.writeIlv {s : State} (h : s.Coherent) (hpad : s.padBuf ≠ none) :
    { s.invalidateFrom .ILV with ilvBuf := some s.expIlv }.Coherent :=
  { h.invalidateFrom .ILV with
    ilvHolds := .inr rfl, ilvPad := fun _ => hpad, corIlv := absurd rfl, recIlv := absurd rfl }

theorem State.Coherent.writeCor {s : State} (h : s.Coherent) (hilv : s.ilvBuf ≠ none) :
    { s.invalidateFrom .COR with corBuf := some s.expCor }.Coherent :=
  { h.invalidateFrom .COR with corHolds := .inr rfl, corIlv := fun _ => hilv, recCor := absurd rfl }

/-- REC through the channel needs COR, without it ILV (R25, R28). -/
theorem State.Coherent.writeRec {s : State} (h : s.Coherent) (b : Bool) (hsource : s.deinterleaveSource b ≠ none) :
    { s.invalidateFrom .REC with
      recBuf := some (Datapath.deinterleave (if b then s.expIlv else s.expCor) s.m.toNat s.t.toNat)
      bypass := b }.Coherent :=
  { h.invalidateFrom .REC with
    recHolds := .inr rfl
    decHolds := .inl rfl
    recIlv := fun _ => by
      cases b
      · exact h.corIlv hsource
      · exact hsource
    recCor := fun _ hb => by
      obtain rfl : b = false := hb
      exact hsource
    decRec := absurd rfl
    bypassSays := nofun }

theorem State.Coherent.writeDec {s : State} (h : s.Coherent) (hrec : s.recBuf ≠ none) :
    { s with decBuf := some s.expDec, matched := matchBit s.expDec s.frame }.Coherent :=
  { h with
    decHolds := .inr rfl
    decRec := fun _ => hrec
    matchSays := by simp [matchBit] }

end Sys2Proof.Machine
end

section
/-! What the engine's commands answer in a coherent state, and that a command's completion keeps the invariant (R118, R126). -/

namespace Sys2Proof.Machine

/-- What a stage may answer in a coherent state: a coherent state, or an error that R126 allows. -/
def AnswerCoherent : Except ErrorCode State → Prop
  | .ok u => u.Coherent
  | .error c => c ≠ .dimensionMismatch

theorem State.Coherent.encodeStage {s : State} (h : s.Coherent) : AnswerCoherent s.encodeStage := by
  rcases s.encodeStage_cases with ⟨_, e⟩ | ⟨_, _, e⟩ | ⟨hp, hfits, e⟩ <;> rw [e]
  · exact nofun
  · exact nofun
  · exact h.writeRed hp (s.length_expRed.trans_le hfits)

theorem State.Coherent.padsplitStage {s : State} (h : s.Coherent) : AnswerCoherent s.padsplitStage := by
  rcases s.padsplitStage_cases with ⟨_, e⟩ | ⟨_, _, e⟩ | ⟨_, _, _, _, e⟩ | ⟨hp, r, hr, hfits, e⟩ <;> rw [e]
  · exact nofun
  · exact nofun
  · exact nofun
  · obtain rfl := h.redHolds.eq_of_some hr
    refine h.writePad (by simp [hr]) ?_
    rwa [hp.length_expPad, ← s.length_expRed]

/-- PAD is made of whole groups, so INTERLEAVE finds no mismatch. -/
theorem State.Coherent.interleaveStage {s : State} (h : s.Coherent) : AnswerCoherent s.interleaveStage := by
  rcases s.interleaveStage_cases with ⟨_, e⟩ | ⟨_, _, e⟩ | ⟨hp, p, hb, hmod, _⟩ | ⟨hp, p, hb, _, e⟩
  · rw [e]; exact nofun
  · rw [e]; exact nofun
  · obtain rfl := h.padHolds.eq_of_some hb
    exact absurd hp.expPad_mod hmod
  · rw [e]
    obtain rfl := h.padHolds.eq_of_some hb
    exact h.writeIlv (by simp [hb])

/-- ILV is as long as PAD, so CORRUPT finds no mismatch. -/
theorem State.Coherent.corruptStage {s : State} (h : s.Coherent) : AnswerCoherent s.corruptStage := by
  rcases s.corruptStage_cases with ⟨_, e⟩ | ⟨_, _, e⟩ | ⟨hp, x, hb, hmod, _⟩ | ⟨hp, x, hb, _, e⟩
  · rw [e]; exact nofun
  · rw [e]; exact nofun
  · obtain rfl := h.ilvHolds.eq_of_some hb
    exact absurd hp.expIlv_mod hmod
  · rw [e]
    obtain rfl := h.ilvHolds.eq_of_some hb
    exact h.writeCor (by simp [hb])

theorem State.Coherent.sourceHolds {s : State} (h : s.Coherent) (b : Bool) :
    Holds (s.deinterleaveSource b) (if b then s.expIlv else s.expCor) := by
  cases b
  · exact h.corHolds
  · exact h.ilvHolds

/-- Either source of DEINTERLEAVE is as long as PAD, so it finds no mismatch. -/
theorem State.Coherent.deinterleaveStage {s : State} (h : s.Coherent) (b : Bool) :
    AnswerCoherent (s.deinterleaveStage b) := by
  rcases s.deinterleaveStage_cases b with ⟨_, e⟩ | ⟨_, _, e⟩ | ⟨hp, x, hb, hmod, _⟩ | ⟨hp, x, hb, _, e⟩
  · rw [e]; exact nofun
  · rw [e]; exact nofun
  · obtain rfl := (h.sourceHolds b).eq_of_some hb
    rw [hp.length_expSource] at hmod
    exact absurd hp.expPad_mod hmod
  · rw [e]
    obtain rfl := (h.sourceHolds b).eq_of_some hb
    exact h.writeRec b (by simp [hb])

/-- REC is at least as long as RED, so DECODE finds no mismatch. -/
theorem State.Coherent.decodeStage {s : State} (h : s.Coherent) : AnswerCoherent s.decodeStage := by
  rcases s.decodeStage_cases with ⟨_, e⟩ | ⟨_, _, e⟩ | ⟨hp, q, hb, hshort, _⟩ | ⟨hp, q, hb, _, e⟩
  · rw [e]; exact nofun
  · rw [e]; exact nofun
  · obtain rfl := h.recHolds.eq_of_some hb
    exact absurd hp.le_length_expRec (Nat.not_le.mpr hshort)
  · rw [e]
    obtain rfl := h.recHolds.eq_of_some hb
    exact h.writeDec (by simp [hb])

/-- RUN writes what the stages write one after the other, CORRUPT left out for RUN.B (R119). -/
theorem State.Coherent.ranState {s : State} (h : s.Coherent) (hp : s.ParamsOk)
    (hred : s.expRed.length ≤ s.cfg.capBuf) (hpad : s.expPad.length ≤ s.cfg.capBuf) (b : Bool) :
    (s.ranState b).Coherent := by
  have hPad : { s.invalidateFrom .RED with redBuf := some s.expRed, padBuf := some s.expPad }.Coherent :=
    (h.writeRed hp hred).writePad nofun hpad
  have hIlv : { s.invalidateFrom .RED with
      redBuf := some s.expRed, padBuf := some s.expPad, ilvBuf := some s.expIlv }.Coherent :=
    hPad.writeIlv nofun
  cases b
  · have hCor : { s.invalidateFrom .RED with
        redBuf := some s.expRed, padBuf := some s.expPad, ilvBuf := some s.expIlv
        corBuf := some s.expCor }.Coherent :=
      hIlv.writeCor nofun
    exact (hCor.writeRec false nofun).writeDec nofun
  · exact (hIlv.writeRec true nofun).writeDec nofun

theorem State.Coherent.runStage {s : State} (h : s.Coherent) (b : Bool) : AnswerCoherent (s.runStage b) := by
  rcases s.runStage_cases b with ⟨_, e⟩ | ⟨_, _, e⟩ | ⟨_, _, _, e⟩ | ⟨hp, hred, hpad, e⟩ <;> rw [e]
  · exact nofun
  · exact nofun
  · exact nofun
  · exact h.ranState hp (s.length_expRed.trans_le hred) (hp.length_expPad.trans_le hpad) b

theorem State.Coherent.stageAnswers {s : State} (h : s.Coherent) : ∀ r ∈ s.stageAnswers, AnswerCoherent r := by
  simp [State.stageAnswers, h.encodeStage, h.padsplitStage, h.interleaveStage, h.corruptStage, h.deinterleaveStage,
    h.decodeStage, h.runStage]

/-- The end of an engine step keeps the invariant: BUSY falls, and the results or the error are coherent (R118). -/
theorem State.Coherent.complete {s : State} (h : s.Coherent) {r : Except ErrorCode State} (hr : AnswerCoherent r) :
    (s.complete r).Coherent := by
  cases r with
  | ok u => exact State.Coherent.of_pipeline_eq hr rfl nofun hr.noMismatch
  | error c => exact (h.recordError hr).of_pipeline_eq rfl nofun (h.recordError hr).noMismatch

end Sys2Proof.Machine
end

section
/-! What one step can do, as one inductive relation with a constructor for each kind of effect, and the rules that every step
obeys: the invariant is kept and holds of every reachable state, and what may change ERR, BUSY, FRAME, the parameters and the
read port. -/

namespace Sys2Proof.Machine

/-! ### The effects of a step -/

/-- The next input is a 32-bit write of a value at an offset. -/
def State.NextWrites (s : State) (off : Nat) (v : Word) (rest : List Input) : Prop :=
  s.inputs = .access { dir := .write, off := off, width := 32, data := v } :: rest

/-- What a step can do to a state; `step_effect` says that every step is one of these. -/
inductive State.Effect (s : State) : State → Prop
  /-- The engine completes its command (R118). -/
  | engine {r : Except ErrorCode State} (busy : s.busy = true) (answer : r ∈ s.stageAnswers) : Effect s (s.complete r)
  /-- A host access that at most returns a value (R14, R45, R87), or is dropped without an error (R77, R117, R123). -/
  | quiet (rest : List Input) (v : Option Word) (d : Nat) : Effect s { s.accept rest with readData := v, draws := d }
  /-- A host access that only records an error (R121). -/
  | hostError (rest : List Input) {c : ErrorCode} (code : c ≠ .noError ∧ c ≠ .dimensionMismatch) :
      Effect s ((s.accept rest).recordError c)
  /-- A CMD write that starts a command (R70). -/
  | start {v : Word} {rest : List Input} (input : s.NextWrites 0x00 v rest) (noErr : s.err = .noError)
      (op : isEngineOp (cmdOp v) = true) : Effect s ((s.accept rest).startCommand (cmdOp v) (cmdB v))
  /-- A CMD write of CLEAR (R116). -/
  | clear {v : Word} {rest : List Input} (input : s.NextWrites 0x00 v rest) (op : cmdOp v = 0x8#4)
      (idle : s.busy = false) : Effect s (s.accept rest).clearAll
  /-- A write of N, M or T (R71 to R73). -/
  | parameters (rest : List Input) (n m t : Word) (idle : s.busy = false) :
      Effect s (({ s.accept rest with n := n, m := m, t := t }).invalidateFrom .FRAME)
  /-- A FRAME_IN write that appends a bit (R77). -/
  | frameBit {v : Word} {rest : List Input} {b : Bit} (input : s.NextWrites 0x14 v rest)
      (char : charBit (charField v) = some b) (idle : s.busy = false) (noErr : s.err = .noError)
      (room : s.frame.length ≠ s.cfg.capFrame) :
      Effect s (({ s.accept rest with frame := s.frame ++ [b] }).invalidateFrom .FRAME)
  /-- A write of RD_SEL (R78). -/
  | select {v : Word} {rest : List Input} (input : s.NextWrites 0x18 v rest) :
      Effect s { s.accept rest with rdSel := selField v }
  /-- A write of RD_IDX (R80). -/
  | index {v : Word} {rest : List Input} (input : s.NextWrites 0x1C v rest) :
      Effect s { s.accept rest with rdIdx := v }
  /-- The reset input (R134). -/
  | reset {rest : List Input} (input : s.inputs = .reset :: rest) : Effect s (s.takeReset rest)
  /-- Nothing to do (R136). -/
  | idle : Effect s s

/-- An access that leaves everything as it is once taken off the inputs. -/
theorem State.Effect.accepted (s : State) (rest : List Input) : s.Effect (s.accept rest) :=
  .quiet rest s.readData s.draws

/-- The effects of a CMD write while BUSY = 0 (R70). -/
theorem effect_commandWrite {s : State} {v : Word} {rest : List Input} (hi : s.NextWrites 0x00 v rest)
    (hidle : s.busy = false) : s.Effect ((s.accept rest).commandWrite (cmdOp v) (cmdB v)) := by
  rcases (s.accept rest).commandWrite_cases (cmdOp v) (cmdB v) with
    ⟨_, e⟩ | ⟨_, e⟩ | ⟨hop, e⟩ | ⟨_, _, e⟩ | ⟨hop, hnoErr, e⟩ <;> rw [e]
  · exact .hostError rest ⟨nofun, nofun⟩
  · exact .accepted s rest
  · exact .clear hi hop hidle
  · exact .accepted s rest
  · exact .start hi hnoErr hop

/-- The effects of a FRAME_IN write while BUSY = 0 (R77). -/
theorem effect_appendChar {s : State} {v : Word} {rest : List Input} (hi : s.NextWrites 0x14 v rest)
    (hidle : s.busy = false) : s.Effect ((s.accept rest).appendChar (charField v)) := by
  rcases (s.accept rest).appendChar_cases (charField v) with
    ⟨_, e⟩ | ⟨hnoErr, _, e⟩ | ⟨hnoErr, _, _, e⟩ | ⟨hnoErr, hroom, b, hchar, e⟩ <;> rw [e]
  · exact .accepted s rest
  · rw [← State.recordError_of_noError hnoErr]
    exact .hostError rest ⟨nofun, nofun⟩
  · rw [← State.recordError_of_noError hnoErr]
    exact .hostError rest ⟨nofun, nofun⟩
  · exact .frameBit hi hchar hidle hnoErr hroom

/-- Every step is one of the effects. -/
theorem step_effect {s s' : State} (h : step s = .next s') : s.Effect s' := by
  rcases step_cases h with
    ⟨_, hbusy, _, hop, rfl, he⟩ | ⟨a, rest, i, hi, _, hf, he⟩ | ⟨rest, hi, _, rfl⟩ | ⟨_, _, rfl⟩
  · obtain ⟨r, hr, rfl⟩ := exec_commandOf hop he
    exact .engine hbusy hr
  · rcases host_step hf he with
      ⟨_, rfl⟩ | ⟨v, hidle, rfl, rfl⟩ | ⟨v, hidle, rfl, rfl⟩ | ⟨v, hidle, rfl, rfl⟩ | ⟨v, hidle, rfl, rfl⟩ |
      ⟨v, hidle, rfl, rfl⟩ | ⟨v, rfl, rfl⟩ | ⟨v, rfl, rfl⟩ | ⟨v, d, rfl⟩
    · exact .hostError (c := .busyViolation) rest ⟨nofun, nofun⟩
    · exact effect_commandWrite hi hidle
    · exact .parameters rest v s.m s.t hidle
    · exact .parameters rest s.n v s.t hidle
    · exact .parameters rest s.n s.m v hidle
    · exact effect_appendChar hi hidle
    · exact .select hi
    · exact .index hi
    · exact .quiet rest v d
  · exact .reset hi
  · exact .idle

/-- A stage that succeeds writes results only (`stage_frame`), and a failing one nothing: what no completion changes. -/
theorem complete_keeps {s : State} {r : Except ErrorCode State} (hr : r ∈ s.stageAnswers) :
    (s.complete r).n = s.n ∧ (s.complete r).m = s.m ∧ (s.complete r).t = s.t ∧ (s.complete r).frame = s.frame ∧
    (s.complete r).cfg = s.cfg ∧ (s.complete r).rdSel = s.rdSel ∧ (s.complete r).rdIdx = s.rdIdx ∧
    (s.err ≠ .noError → (s.complete r).err = s.err) := by
  cases r with
  | ok u =>
    rw [State.complete_ok, stage_frame hr]
    exact ⟨rfl, rfl, rfl, rfl, rfl, rfl, rfl, fun _ => rfl⟩
  | error c => exact ⟨rfl, rfl, rfl, rfl, rfl, rfl, rfl, fun herr => if_neg herr⟩

/-! ### The invariant -/

theorem State.Coherent.accept {s : State} (h : s.Coherent) (rest : List Input) : (s.accept rest).Coherent :=
  h.of_pipeline_eq rfl h.latchLegal h.noMismatch

/-- Settles O44: each effect keeps the invariant, the engine's by its stages, the host's by what it invalidates. -/
theorem stepKeepsCoherent : Obligations.StepKeepsCoherent := by
  intro s s' h hstep
  cases step_effect hstep with
  | engine _ answer => exact h.complete (h.stageAnswers _ answer)
  | quiet rest v d => exact h.of_pipeline_eq rfl h.latchLegal h.noMismatch
  | hostError rest code => exact (h.accept rest).recordError code.2
  | start _ _ op => exact h.of_pipeline_eq rfl (fun _ => op) h.noMismatch
  | @clear _ rest =>
    exact State.coherent_invalidateFrom_FRAME (s := (s.accept rest).clearAll) h.cfgLegal (Nat.zero_le _) h.latchLegal
      nofun
  | parameters rest n m t => exact State.coherent_invalidateFrom_FRAME h.cfgLegal h.frameFits h.latchLegal h.noMismatch
  | frameBit _ _ _ _ room =>
    refine State.coherent_invalidateFrom_FRAME h.cfgLegal ?_ h.latchLegal h.noMismatch
    rw [List.length_append]
    exact lt_of_le_of_ne h.frameFits room
  | select => exact h.of_pipeline_eq rfl h.latchLegal h.noMismatch
  | index => exact h.of_pipeline_eq rfl h.latchLegal h.noMismatch
  | @reset rest =>
    exact State.coherent_invalidateFrom_FRAME (s := s.takeReset rest) h.cfgLegal (Nat.zero_le _) nofun nofun
  | idle => exact h

/-- The parameters of the implementation are legal, whatever its free values are (R8). -/
theorem Config.params_legal : Config.params.Legal := by
  have hFrame := Config.capFrameLessOne.isLt
  have hBuf := Config.capBufLessOne.isLt
  simp only [Params.Legal, Config.params]
  omega

/-- The reset state with legal parameters, whatever the outside is going to do. -/
theorem coherent_reset_with {cfg : Params} (hcfg : cfg.Legal) (ins : List Input) (ls : List Nat) :
    { State.reset with cfg := cfg, inputs := ins, latencies := ls }.Coherent :=
  State.coherent_invalidateFrom_FRAME (s := { State.reset with cfg := cfg, inputs := ins, latencies := ls }) hcfg
    (Nat.zero_le _) nofun nofun

/-- Settles O45: every derived buffer is invalid after reset. -/
theorem resetIsCoherent : Obligations.ResetIsCoherent :=
  coherent_reset_with Config.params_legal [] []

/-- What every step keeps, every run keeps. -/
theorem run_keeps {C : Host.Core} {P : C.State → Prop} (hstep : ∀ s s', P s → C.step s = .next s' → P s') {k : Nat}
    {s s' : C.State} (h : P s) (hrun : C.run k s = .next s') : P s' := by
  induction k generalizing s with
  | zero =>
    injection hrun with hrun
    exact hrun ▸ h
  | succ k ih =>
    rw [Host.Core.run] at hrun
    split at hrun
    next u hu => exact ih (hstep s u h hu) hrun
    next => cases hrun
    next => cases hrun

/-- Settles O46: the start is coherent and every step keeps it. -/
theorem reachableStatesAreCoherent : Obligations.ReachableStatesAreCoherent := by
  intro cfg ins ls k s hcfg hrun
  exact run_keeps (C := Sys2Proof.core) stepKeepsCoherent (coherent_reset_with hcfg ins ls) hrun

/-- Where ILV is valid so are PAD and RED, and N, M and T were checked (R25). -/
theorem State.Coherent.paramsOk_of_ilv {s : State} (h : s.Coherent) (hilv : s.ilvBuf ≠ none) : s.ParamsOk :=
  h.redParams (h.padRed (h.ilvPad hilv))

/-- Settles O47: every valid buffer holds its stage's result, whose length is known; the chain is the invariant's. -/
theorem bufferLengths : Obligations.BufferLengths := by
  intro s h
  refine ⟨fun x hx => ?_, fun x hx => ?_, fun x hx => ?_, ?_, ?_, ?_, ?_, ?_⟩
  · obtain rfl := h.redHolds.eq_of_some hx
    exact ⟨s.length_expRed, (h.redParams (by simp [hx])).1⟩
  · have hpad : s.padBuf ≠ none := by
      rcases hx with hx | hx | hx | hx
      · simp [hx]
      · exact h.ilvPad (by simp [hx])
      · exact h.ilvPad (h.corIlv (by simp [hx]))
      · exact h.ilvPad (h.recIlv (by simp [hx]))
    have hp := h.redParams (h.padRed hpad)
    have hlen : x.length = s.expPad.length := by
      rcases hx with hx | hx | hx | hx
      · rw [h.padHolds.eq_of_some hx]
      · rw [h.ilvHolds.eq_of_some hx, hp.length_expIlv]
      · rw [h.corHolds.eq_of_some hx, hp.length_expCor]
      · rw [h.recHolds.eq_of_some hx, hp.length_expRec]
    exact ⟨hlen.trans hp.length_expPad, hlen.trans_le (h.padFits hpad), hp.2⟩
  · have hrec : s.recBuf ≠ none := h.decRec (by simp [hx])
    have hp := h.paramsOk_of_ilv (h.recIlv hrec)
    obtain rfl := h.decHolds.eq_of_some hx
    exact ⟨hp.length_expDec, hp.length_expDec.trans_le h.frameFits⟩
  all_goals simp only [Option.isSome_iff_ne_none]
  · exact h.decRec
  · exact h.recIlv
  · exact h.corIlv
  · exact h.ilvPad
  · exact h.padRed

/-! ### What may change a component -/

/-- Settles O49: only CLEAR and reset write ERR without asking whether an error stands. -/
theorem firstErrorStands : Obligations.FirstErrorStands := by
  intro s s' h herr
  cases step_effect h with
  | engine _ answer =>
    obtain ⟨-, -, -, -, -, -, -, hkept⟩ := complete_keeps answer
    exact .inl (hkept herr)
  | hostError => exact .inl (if_neg herr)
  | @clear v rest input op idle => exact .inr ⟨rfl, .inr ⟨⟨v, rest, input, op⟩, idle⟩⟩
  | @reset rest input => exact .inr ⟨rfl, .inl ⟨rest, input⟩⟩
  | quiet | start | parameters | frameBit | select | index | idle => exact .inl rfl

/-- Settles O53: among the effects only `start` sets BUSY. -/
theorem onlyCommandWritesSetBusy : Obligations.OnlyCommandWritesSetBusy := by
  intro s s' h hidle hbusy
  cases step_effect h with
  | @start v rest input noErr op =>
    obtain ⟨hlow, hhigh⟩ := of_decide_eq_true op
    exact ⟨v, rest, input, noErr, hlow, hhigh, rfl, rfl⟩
  | reset => simp at hbusy
  | engine busy => simp [hidle] at busy
  | quiet | hostError | clear | parameters | frameBit | select | index | idle => simp [hidle] at hbusy

/-- The two characters of R63. -/
theorem charBit_eq_some {c : BitVec 8} {b : Bit} (h : charBit c = some b) : c = if b then 0x31#8 else 0x30#8 := by
  unfold charBit at h
  split at h
  · obtain rfl : false = b := by simpa using h
    assumption
  · split at h
    · obtain rfl : true = b := by simpa using h
      assumption
    · cases h

/-- Settles O54: among the effects `clear` and `reset` empty FRAME and `frameBit` appends to it; no other writes it. -/
theorem frameChangesOnlyBy : Obligations.FrameChangesOnlyBy := by
  intro s s' h hframe
  cases step_effect h with
  | engine _ answer => exact absurd (by simp [complete_keeps answer]) hframe
  | @clear v rest input op idle => exact .inl ⟨rfl, .inr ⟨⟨v, rest, input, op⟩, idle⟩⟩
  | @reset rest input => exact .inl ⟨rfl, .inl ⟨rest, input⟩⟩
  | @frameBit v rest b input char idle noErr room =>
    exact .inr ⟨b, v, rest, input, charBit_eq_some char, idle, noErr, room, rfl⟩
  | quiet | hostError | start | parameters | select | index | idle => exact absurd rfl hframe

/-- Settles O55: an effect that writes N, M, T or FRAME invalidates from FRAME on, or clears, or resets. -/
theorem changedInputsInvalidateResults : Obligations.ChangedInputsInvalidateResults := by
  intro s s' h hchanged
  cases step_effect h with
  | clear | parameters | frameBit | reset => exact ⟨rfl, rfl, rfl, rfl, rfl, rfl, rfl, rfl⟩
  | engine _ answer => simp [complete_keeps answer] at hchanged
  | quiet | hostError | start | select | index | idle => simp at hchanged

/-- Settles O56: RD_SEL and RD_IDX are written by `select`, `index` and `reset` alone, the parameters by no effect. -/
theorem readPortAndParametersKept : Obligations.ReadPortAndParametersKept := by
  intro s s' h
  cases step_effect h with
  | engine _ answer => simp [complete_keeps answer]
  | @select v rest input => exact ⟨rfl, fun _ => .inr ⟨v, rest, input, rfl⟩, absurd rfl⟩
  | @index v rest input => exact ⟨rfl, absurd rfl, fun _ => .inr ⟨v, rest, input, rfl⟩⟩
  | @reset rest input => exact ⟨rfl, fun _ => .inl ⟨rest, input⟩, fun _ => .inl ⟨rest, input⟩⟩
  | quiet | hostError | start | clear | parameters | frameBit | idle => exact ⟨rfl, absurd rfl, absurd rfl⟩

end Sys2Proof.Machine
end

section
/-! Which instruction a step runs, the values after reset, and that the latch of an idle engine reaches nothing (R18, R32, R36,
R47). -/

namespace Sys2Proof.Machine

/-! ### The turn and the instruction it runs -/

theorem State.turn_input {s : State} {i : Input} {rest : List Input} (hi : s.inputs = i :: rest)
    (hturn : ¬ (s.busy = true ∧ s.wait = 0)) : s.turn = .input i rest := by
  unfold State.turn
  rw [hi]
  exact if_neg hturn

theorem State.turn_engine {s : State} (hbusy : s.busy = true) (hw : s.inputs = [] ∨ s.wait = 0) :
    s.turn = .engine := by
  unfold State.turn
  cases hi : s.inputs with
  | nil => exact if_pos hbusy
  | cons i rest => exact if_pos ⟨hbusy, hw.resolve_left (by simp [hi])⟩

theorem State.turn_idle {s : State} (hi : s.inputs = []) (hidle : s.busy = false) : s.turn = .idle := by
  simp [State.turn, hi, hidle]

theorem step_access {s : State} {a : Access} {rest : List Input} {i : Instr} (hi : s.inputs = .access a :: rest)
    (hturn : ¬ (s.busy = true ∧ s.wait = 0)) (hf : fetchAccess a = .ok i) : step s = exec i (s.accept rest) := by
  simp [step, State.turn_input hi hturn, hf]

theorem step_reset {s : State} {rest : List Input} (hi : s.inputs = .reset :: rest)
    (hturn : ¬ (s.busy = true ∧ s.wait = 0)) : step s = .next (s.takeReset rest) := by
  simp [step, State.turn_input hi hturn]

theorem step_idle {s : State} (hi : s.inputs = []) (hidle : s.busy = false) : step s = .next s := by
  simp [step, State.turn_idle hi hidle]

theorem step_engine {s : State} (hbusy : s.busy = true) (hw : s.inputs = [] ∨ s.wait = 0)
    (hop : isEngineOp s.pendOp = true) : step s = exec (commandOf s.pendOp s.pendB) s := by
  simp [step, State.turn_engine hbusy hw, State.fetchEngine, hop]

/-- Settles O5: the host's turn by `step_access`, the engine's by `step_engine`. -/
theorem stepRunsDecodedOperation : Obligations.StepRunsDecodedOperation := by
  refine ⟨fun s a rest i hi hturn hwidth hoff hdecode => ?_, fun s hbusy hw hlow hhigh => ?_⟩
  · exact step_access hi hturn (fetchAccess_ok hwidth hoff hdecode)
  · exact step_engine hbusy hw (decide_eq_true ⟨hlow, hhigh⟩)

/-- Settles O7: the reset state is the table of R36 by definition, and the three reads are evaluated on it. -/
theorem resetValues : Obligations.ResetValues :=
  ⟨rfl, rfl, rfl, rfl, rfl, rfl, rfl, rfl, rfl, rfl, rfl, rfl, rfl, rfl, rfl, rfl, rfl, rfl, rfl, rfl, rfl⟩

/-! ### The latch of an idle engine -/

/-- The state with another command in the engine's latch. -/
def State.withLatch (s : State) (op : BitVec 4) (b : Bool) : State := { s with pendOp := op, pendB := b }

/-- The latch that follows a step: kept while the engine stays idle, overwritten by a command that starts. -/
def State.relatch (t : State) (op : BitVec 4) (b : Bool) : State := if t.busy then t else t.withLatch op b

theorem State.relatch_idle {t : State} (h : t.busy = false) (op : BitVec 4) (b : Bool) :
    t.relatch op b = t.withLatch op b := by
  simp [State.relatch, h]

theorem State.relatch_busy {t : State} (h : t.busy = true) (op : BitVec 4) (b : Bool) : t.relatch op b = t := by
  simp [State.relatch, h]

/-- A read of an idle block returns what does not depend on the latch. -/
theorem exec_read_withLatch {s t : State} {o : BitVec 8} {i : Instr} (hi : i ∈ readInstrs o) (hidle : s.busy = false)
    (he : exec i s = .next t) (op : BitVec 4) (b : Bool) : exec i (s.withLatch op b) = .next (t.relatch op b) := by
  have hlatched : (s.withLatch op b).busy = false := hidle
  have htidle : t.busy = false := by
    obtain ⟨v, d, rfl⟩ := exec_readInstrs hi he
    exact hidle
  rw [State.relatch_idle htidle]
  simp only [readInstrs, List.mem_cons, List.not_mem_nil, or_false] at hi
  rcases hi with rfl | rfl | rfl | rfl | rfl | rfl | rfl | rfl | rfl | rfl | rfl | rfl | rfl | rfl | rfl
  case inr.inr.inr.inr.inr.inr.inr.inr.inl =>
    simp only [exec, execRdRdData, hidle, hlatched] at he ⊢
    injection he with he
    exact he ▸ rfl
  case inr.inr.inr.inr.inr.inr.inr.inr.inr.inl =>
    simp only [exec, execRdRdLen, hidle, hlatched] at he ⊢
    injection he with he
    exact he ▸ rfl
  all_goals (injection he with he; exact he ▸ rfl)

theorem exec_ignoredWrite_withLatch {s t : State} {o : BitVec 8} {v : Word} {i : Instr} (hi : i ∈ ignoredWrites o v)
    (hidle : s.busy = false) (he : exec i s = .next t) (op : BitVec 4) (b : Bool) :
    exec i (s.withLatch op b) = .next (t.relatch op b) := by
  obtain ⟨u, hu⟩ := exec_answers_next i (s.withLatch op b)
  rw [hu, exec_ignoredWrites hi hu, exec_ignoredWrites hi he, State.relatch_idle hidle]

/-- A command write of an idle block reads no latch, and overwrites it where it starts a command (R32, R70). -/
theorem State.commandWrite_withLatch {s : State} (hidle : s.busy = false) (op : BitVec 4) (b : Bool) (c : BitVec 4)
    (d : Bool) : (s.commandWrite c d).relatch op b = (s.withLatch op b).commandWrite c d := by
  unfold State.commandWrite
  rw [show (s.withLatch op b).err = s.err from rfl]
  split_ifs
  · exact State.relatch_idle (by exact hidle) op b
  · exact State.relatch_idle (by exact hidle) op b
  · exact State.relatch_idle (by exact hidle) op b
  · exact State.relatch_idle (by exact hidle) op b
  · exact State.relatch_busy rfl op b

theorem State.appendChar_withLatch {s : State} (hidle : s.busy = false) (op : BitVec 4) (b : Bool) (c : BitVec 8) :
    (s.appendChar c).relatch op b = (s.withLatch op b).appendChar c := by
  have hkept : (s.appendChar c).busy = false := by
    rcases s.appendChar_cases c with ⟨_, e⟩ | ⟨_, _, e⟩ | ⟨_, _, _, e⟩ | ⟨_, _, _, _, e⟩ <;> rw [e] <;> exact hidle
  rw [State.relatch_idle hkept]
  unfold State.appendChar
  rw [show (s.withLatch op b).err = s.err from rfl, show (s.withLatch op b).frame = s.frame from rfl,
    show (s.withLatch op b).cfg = s.cfg from rfl]
  split
  · rfl
  · split
    · rfl
    · split <;> rfl

/-- The BUSY guard of an idle block lets the write through, whatever the latch holds. -/
theorem State.guardBusy_withLatch {s : State} {f : State → State} (hidle : s.busy = false) (op : BitVec 4) (b : Bool)
    (hf : (f s).relatch op b = f (s.withLatch op b)) :
    (s.guardBusy f).relatch op b = (s.withLatch op b).guardBusy f := by
  rw [State.guardBusy_idle hidle, State.guardBusy_idle (s := s.withLatch op b) hidle, hf]

/-- The writes that can change the block (R70 to R73, R77, R78, R80). -/
def effectiveWrites (v : Word) : List Instr :=
  [.wrCmd v, .wrN v, .wrM v, .wrT v, .wrFrameIn v, .wrRdSel v, .wrRdIdx v]

theorem exec_effectiveWrite_withLatch {s t : State} {v : Word} {i : Instr} (hi : i ∈ effectiveWrites v)
    (hidle : s.busy = false) (he : exec i s = .next t) (op : BitVec 4) (b : Bool) :
    exec i (s.withLatch op b) = .next (t.relatch op b) := by
  simp only [effectiveWrites, List.mem_cons, List.not_mem_nil, or_false] at hi
  symm
  rcases hi with rfl | rfl | rfl | rfl | rfl | rfl | rfl <;> injection he with he <;> subst he <;>
    refine congrArg Host.Outcome.next ?_
  · exact State.guardBusy_withLatch hidle op b (State.commandWrite_withLatch hidle op b _ _)
  · exact State.guardBusy_withLatch hidle op b (State.relatch_idle (by exact hidle) op b)
  · exact State.guardBusy_withLatch hidle op b (State.relatch_idle (by exact hidle) op b)
  · exact State.guardBusy_withLatch hidle op b (State.relatch_idle (by exact hidle) op b)
  · exact State.guardBusy_withLatch hidle op b (State.appendChar_withLatch hidle op b _)
  · exact State.relatch_idle (by exact hidle) op b
  · exact State.relatch_idle (by exact hidle) op b

/-- The three kinds of host access. -/
theorem fetchAccess_kinds {a : Access} {i : Instr} (hf : fetchAccess a = .ok i) :
    i ∈ readInstrs (BitVec.ofNat 8 a.off) ∨ i ∈ effectiveWrites a.data ∨
      i ∈ ignoredWrites (BitVec.ofNat 8 a.off) a.data := by
  obtain ⟨-, hi⟩ := fetchAccess_inv hf
  cases hdir : a.dir with
  | read =>
    simp only [hdir] at hi
    exact .inl (hi ▸ decodeRead_mem _)
  | write =>
    simp only [hdir] at hi
    rcases decodeWrite_cases (BitVec.ofNat 8 a.off) a.data with
      ⟨-, e⟩ | ⟨-, e⟩ | ⟨-, e⟩ | ⟨-, e⟩ | ⟨-, e⟩ | ⟨-, e⟩ | ⟨-, e⟩ | e
    case inr.inr.inr.inr.inr.inr.inr => exact .inr (.inr (hi ▸ e))
    all_goals exact .inr (.inl (by simp [hi, e, effectiveWrites]))

/-- An access to an idle block does the same whatever the latch holds, but for the latch. -/
theorem exec_access_withLatch {s t : State} {a : Access} {i : Instr} (hf : fetchAccess a = .ok i)
    (hidle : s.busy = false) (he : exec i s = .next t) (op : BitVec 4) (b : Bool) :
    exec i (s.withLatch op b) = .next (t.relatch op b) := by
  rcases fetchAccess_kinds hf with hi | hi | hi
  · exact exec_read_withLatch hi hidle he op b
  · exact exec_effectiveWrite_withLatch hi hidle he op b
  · exact exec_ignoredWrite_withLatch hi hidle he op b

/-- A step of an idle block does the same whatever the latch holds, but for the latch, which reset sets. -/
theorem step_withLatch {s t : State} (hidle : s.busy = false) (h : step s = .next t) (op : BitVec 4) (b : Bool) :
    step (s.withLatch op b) = .next (t.relatch op b) ∨ step (s.withLatch op b) = .next t := by
  rcases step_cases h with
    ⟨_, hbusy, -⟩ | ⟨a, rest, i, hi, hturn, hf, he⟩ | ⟨rest, hi, hturn, rfl⟩ | ⟨-, hi, rfl⟩
  · simp [hidle] at hbusy
  · rw [step_access (s := s.withLatch op b) hi hturn hf]
    exact .inl (exec_access_withLatch (s := s.accept rest) hf hidle he op b)
  · exact .inr (step_reset (s := s.withLatch op b) hi hturn)
  · rw [step_idle (s := t.withLatch op b) hi hidle, State.relatch_idle hidle]
    exact .inl rfl

/-- Settles O57: with another latch the step leads to the same state, or to its `relatch`. -/
theorem idleLatchIsUnobservable : Obligations.IdleLatchIsUnobservable := by
  intro s t op b hidle h
  rcases step_withLatch hidle h op b with hstep | hstep
  · refine ⟨_, hstep, ?_, fun hbusy => State.relatch_busy hbusy op b⟩
    unfold State.relatch
    split <;> rfl
  · exact ⟨_, hstep, rfl, fun _ => rfl⟩

end Sys2Proof.Machine
end

section
/-! A buffer in two parts, the first of whole groups: its groups are the groups of the parts (R53). -/

namespace Sys2Proof.Machine.Datapath

/-- A slice that ends within the first part. -/
theorem slice_append_left {p : Bits} (q : Bits) {a len : Nat} (h : a + len ≤ p.length) :
    slice (p ++ q) a len = slice p a len := by
  unfold slice
  rw [List.drop_append_of_le_length (by omega), List.take_append_of_le_length (by rw [List.length_drop]; omega)]

/-- A slice that starts in the second part. -/
theorem slice_append_right (p q : Bits) (a len : Nat) : slice (p ++ q) (p.length + a) len = slice q a len := by
  rw [slice, List.drop_length_add_append, slice]

theorem groups_append {p : Bits} (q : Bits) {g : Nat} (hp : p.length % g = 0) :
    groups (p ++ q) g = groups p g ++ groups q g := by
  have hdvd : g ∣ p.length := Nat.dvd_of_mod_eq_zero hp
  have hlen : p.length / g * g = p.length := Nat.div_mul_cancel hdvd
  have hcount : (p ++ q).length / g = p.length / g + q.length / g := by
    rw [List.length_append, Nat.add_div_of_dvd_right hdvd]
  unfold groups
  rw [hcount, List.range_add, List.map_append, List.map_map]
  congr 1
  · refine List.map_congr_left fun k hk => slice_append_left q ?_
    calc k * g + g = (k + 1) * g := (Nat.succ_mul k g).symm
      _ ≤ p.length / g * g := Nat.mul_le_mul_right g (List.mem_range.mp hk)
      _ = p.length := hlen
  · refine List.map_congr_left fun k _ => ?_
    rw [Function.comp_apply, Nat.add_mul, hlen, slice_append_right]

/-- Work done group by group is done part by part. -/
theorem flatMap_groups_append (f : Bits → Bits) {p : Bits} (q : Bits) {g : Nat} (hp : p.length % g = 0) :
    (groups (p ++ q) g).flatMap f = (groups p g).flatMap f ++ (groups q g).flatMap f := by
  rw [groups_append q hp, List.flatMap_append]

/-- Settles O43: the three functions are maps of groups (`flatMap_groups_append`). -/
theorem groupsAreIndependent : Obligations.GroupsAreIndependent := by
  intro p q m t _ _ hp
  exact ⟨flatMap_groups_append _ q hp, flatMap_groups_append _ q hp, flatMap_groups_append _ q hp⟩

end Sys2Proof.Machine.Datapath
end

section
/-! The register window: accesses without a step (R42, R44), the byte lanes of a word (R41), and that reads change nothing in the
block (R45). -/

namespace Sys2Proof.Machine

/-! ### Accesses without a step -/

theorem fetchAccess_width {a : Access} (hw : a.width ≠ 32) : fetchAccess a = .error .accessWidth :=
  if_pos hw

theorem fetchAccess_outside {a : Access} (hw : a.width = 32) (ho : 256 ≤ a.off) :
    fetchAccess a = .error .outsideWindow := by
  unfold fetchAccess
  rw [if_neg (not_not.mpr hw), if_pos ho]

/-- An offset whose two low bits are 0 is aligned (R55). -/
theorem toNat_mod_four_of_low_bits {o : BitVec 8} (h : o.extractLsb' 0 2 = 0#2) : o.toNat % 4 = 0 := by
  simpa using congrArg BitVec.toNat h

theorem decode_misaligned {d : Dir} {o : BitVec 8} (ho : o.toNat % 4 ≠ 0) (v : Word) :
    decode (.access (accessKey d o) v) = .error .misaligned := by
  rw [decode, keyDir_accessKey, keyOff_accessKey]
  exact if_neg (mt toNat_mod_four_of_low_bits ho)

theorem fetchAccess_misaligned {a : Access} (hw : a.width = 32) (ho : a.off < 256) (h4 : a.off % 4 ≠ 0) :
    fetchAccess a = .error .misalignedAccess := by
  have hoff : (BitVec.ofNat 8 a.off).toNat % 4 ≠ 0 := by
    rwa [BitVec.toNat_ofNat, Nat.mod_eq_of_lt ho]
  unfold fetchAccess
  rw [if_neg (not_not.mpr hw), if_neg (Nat.not_le.mpr ho), decode_misaligned hoff]

/-- In the host's turn an access that cannot be fetched stops the machine. -/
theorem step_accessFault {s : State} {a : Access} {rest : List Input} {f : Fault} (hi : s.inputs = .access a :: rest)
    (hturn : ¬ (s.busy = true ∧ s.wait = 0)) (hf : fetchAccess a = .error f) : step s = .fault f := by
  simp [step, State.turn_input hi hturn, hf]

/-- Settles O6: each kind of access fails to be fetched with its fault. -/
theorem illegalAccessIsStuck : Obligations.IllegalAccessIsStuck := by
  intro s a rest hi hturn
  exact ⟨fun hw => step_accessFault hi hturn (fetchAccess_width hw),
    fun hw ho => step_accessFault hi hturn (fetchAccess_outside hw ho),
    fun hw ho h4 => step_accessFault hi hturn (fetchAccess_misaligned hw ho h4)⟩

/-! ### Byte lanes -/

theorem getLsbD_lane (v : Word) (k : Nat) {j : Nat} (hj : j < 8) : (lane v k).getLsbD j = v.getLsbD (8 * k + j) := by
  simp [lane, hj]

/-- A lane joins the field of the word that starts where the lane ends. -/
theorem extractLsb'_append_lane (v : Word) (k w : Nat) :
    v.extractLsb' (8 * (k + 1)) w ++ lane v k = v.extractLsb' (8 * k) (w + 8) :=
  BitVec.extractLsb'_append_extractLsb'_eq_extractLsb' (Nat.mul_succ 8 k)

theorem ofLanes_lane (v : Word) : ofLanes (lane v 0) (lane v 1) (lane v 2) (lane v 3) = v :=
  calc ofLanes (lane v 0) (lane v 1) (lane v 2) (lane v 3)
    _ = v.extractLsb' (8 * 3) 8 ++ lane v 2 ++ lane v 1 ++ lane v 0 := rfl
    _ = v.extractLsb' (8 * 2) 16 ++ lane v 1 ++ lane v 0 := by rw [extractLsb'_append_lane v 2]
    _ = v.extractLsb' (8 * 1) 24 ++ lane v 0 := by rw [extractLsb'_append_lane v 1]
    _ = v.extractLsb' (8 * 0) 32 := extractLsb'_append_lane v 0 24
    _ = v := BitVec.extractLsb'_eq_self

/-- Settles O21: lane after lane joins a longer field of the word (`extractLsb'_append_lane`). -/
theorem lanesAreLittleEndian : Obligations.LanesAreLittleEndian :=
  ⟨ofLanes_lane, fun v k _ _ hj => getLsbD_lane v k hj⟩

/-! ### Reads -/

/-- An outcome that gives the host a value and changes nothing in the block; only during BUSY may it count a draw
(logs 3 and 5). -/
def AnswersRead (s : State) (r : Result) : Prop :=
  ∃ (v : Word) (d : Nat), r = .next { s with readData := some v, draws := d } ∧ (s.busy = false → d = s.draws)

theorem answersRead_returnRead (s : State) (v : Word) : AnswersRead s (.next (s.returnRead v)) :=
  ⟨v, s.draws, rfl, fun _ => rfl⟩

/-- The reads of RD_DATA and RD_LEN, whose value is free during BUSY (R82, R83). -/
theorem answersRead_freeWhileBusy (s : State) (v : Word) :
    AnswersRead s (.next (if s.busy then s.returnAny else s.returnRead v)) := by
  cases hb : s.busy with
  | false => exact answersRead_returnRead s v
  | true => exact ⟨Config.busyRead s.draws, s.draws + 1, rfl, fun hidle => by simp [hb] at hidle⟩

/-- Settles O52: thirteen reads return a value of the state, RD_DATA and RD_LEN a free one during BUSY. -/
theorem readsHaveNoSideEffects : Obligations.ReadsHaveNoSideEffects := by
  intro s off
  have value := answersRead_returnRead s
  have free := answersRead_freeWhileBusy s
  simp only [List.forall_mem_cons]
  exact ⟨value _, value _, value _, value _, value _, value _, free _, free _, value _, value _, value _,
    value _, value _, value _, value _, nofun⟩

end Sys2Proof.Machine
end

section
/-! The encoding: what the encoder and the decoder make of each other, for command words (R59 to R62) and for register accesses
(R55, R56, R89), and that a CMD write performs its immediate command (R70). -/

namespace Sys2Proof.Machine

/-! ### The fields of a command word (R59, R61) -/

theorem cmdOp_commandWord (op : BitVec 4) (b : Bool) : cmdOp (commandWord op b) = op :=
  BitVec.extractLsb'_append_eq_right

theorem cmdB_commandWord (op : BitVec 4) (b : Bool) : cmdB (commandWord op b) = b := by
  revert op b
  decide

theorem commandWord_ignoredBits (op : BitVec 4) (b : Bool) : (commandWord op b).extractLsb' 5 27 = 0#27 := by
  revert op b
  decide

theorem decode_commandWord (op : BitVec 4) (b : Bool) : decode (.command (commandWord op b)) = .ok (commandOf op b) := by
  rw [decode, decodeCommand, cmdOp_commandWord, cmdB_commandWord]

/-- OP and B are fields of the word's five low bits. -/
theorem decodeCommand_eq_of_low_bits {u w : Word} (h : u.extractLsb' 0 5 = w.extractLsb' 0 5) :
    decodeCommand u = decodeCommand w := by
  have hop : cmdOp u = cmdOp w := by
    simpa [cmdOp] using congrArg (BitVec.extractLsb' 0 4) h
  have hb : cmdB u = cmdB w := by
    simpa [cmdB] using congrArg (BitVec.getLsbD · 4) h
  rw [decodeCommand, decodeCommand, hop, hb]

/-! ### Commands (R60, R62) -/

/-- The opcodes whose command depends on B: DEINTERLEAVE and RUN (R61). -/
def usesB (op : BitVec 4) : Bool := op == 0x5#4 || op == 0x7#4

theorem commandOf_ignoresB {op : BitVec 4} (h5 : op ≠ 0x5#4) (h7 : op ≠ 0x7#4) (b c : Bool) :
    commandOf op b = commandOf op c := by
  simp [commandOf, h5, h7]

theorem commandOf_wellFormed (op : BitVec 4) (b : Bool) : (commandOf op b).WellFormed = true := by
  revert op b
  decide

/-- The encoder gives a command's OP back, and its B where B matters. -/
theorem encode_commandOf (op : BitVec 4) (b : Bool) :
    encode (commandOf op b) = .command (commandWord op (b && usesB op)) := by
  revert op b
  decide

theorem commandOf_rowAB {op : BitVec 4} (b : Bool) (h : op &&& 0xE#4 = 0xA#4) : commandOf op b = .reservedOpAB op := by
  revert op b
  decide

theorem commandOf_rowCF {op : BitVec 4} (b : Bool) (h : op &&& 0xC#4 = 0xC#4) : commandOf op b = .reservedOpCF op := by
  revert op b
  decide

/-- Settles O4: a word decodes by OP and B alone, and `encode_commandOf` gives the word of its command. -/
theorem everyCommandWordIsOneCommand : Obligations.EveryCommandWordIsOneCommand := by
  intro w
  refine ⟨commandOf_wellFormed _ _, ⟨commandWord (cmdOp w) (cmdB w && usesB (cmdOp w)), ?_, ?_, ?_, ?_⟩, ?_, ?_⟩
  · exact encode_commandOf _ _
  · exact cmdOp_commandWord _ _
  · intro hop
    have huses : usesB (cmdOp w) = true := by simpa [usesB, cmdOp] using hop
    rw [huses, Bool.and_true]
    exact cmdB_commandWord _ _
  · exact commandWord_ignoredBits _ _
  · exact fun u => decodeCommand_eq_of_low_bits
  · intro u hop h5 h7
    have hop' : cmdOp u = cmdOp w := hop
    rw [decodeCommand, decodeCommand, hop']
    exact commandOf_ignoresB h5 h7 _ _

/-! ### The offsets of the window (R56, R89) -/

/-- The offsets of the registers (R56). -/
def registerOffsets : List (BitVec 8) :=
  [0x00#8, 0x04#8, 0x08#8, 0x0C#8, 0x10#8, 0x14#8, 0x18#8, 0x1C#8, 0x20#8, 0x24#8, 0x28#8, 0x2C#8]

/-- The offset lies in one of the three blocks that the table makes of the reserved offsets (R89). -/
abbrev ReservedOffset (off : BitVec 8) : Prop :=
  off &&& 0xF3#8 = 0x30#8 ∨ off &&& 0xC3#8 = 0x40#8 ∨ off &&& 0x83#8 = 0x80#8

/-- The reserved blocks hold exactly the aligned offsets that no register has. -/
theorem reservedOffset_iff (off : BitVec 8) :
    ReservedOffset off ↔ off.extractLsb' 0 2 = 0#2 ∧ off ∉ registerOffsets := by
  revert off
  decide

theorem low_bits_of_toNat_mod_four {off : BitVec 8} (h : off.toNat % 4 = 0) : off.extractLsb' 0 2 = 0#2 :=
  BitVec.eq_of_toNat_eq (by simpa using h)

/-- An aligned offset is a register's or reserved. -/
theorem register_or_reserved {off : BitVec 8} (h : off.extractLsb' 0 2 = 0#2) :
    off ∈ registerOffsets ∨ ReservedOffset off := by
  rw [reservedOffset_iff]
  tauto

/-! ### The decoder on accesses -/

theorem decode_accessKey (d : Dir) (off : BitVec 8) (v : Word) :
    decode (.access (accessKey d off) v) = decodeAccess d off v := by
  rw [decode, keyDir_accessKey, keyOff_accessKey]

theorem decodeAccess_misaligned {off : BitVec 8} (h : off.toNat % 4 ≠ 0) (d : Dir) (v : Word) :
    decodeAccess d off v = .error .misaligned :=
  (decode_accessKey d off v).symm.trans (decode_misaligned h v)

theorem decodeAccess_read {off : BitVec 8} (h : off.extractLsb' 0 2 = 0#2) (v : Word) :
    decodeAccess .read off v = .ok (decodeRead off) := if_pos h

theorem decodeAccess_write {off : BitVec 8} (h : off.extractLsb' 0 2 = 0#2) (v : Word) :
    decodeAccess .write off v = .ok (decodeWrite off v) := if_pos h

theorem decode_readOf {off : BitVec 8} (h : ReservedOffset off) : decode (readOf off) = .ok (decodeRead off) :=
  (decode_accessKey .read off 0).trans (decodeAccess_read ((reservedOffset_iff off).mp h).1 0)

theorem decode_writeOf {off : BitVec 8} (h : ReservedOffset off) (v : Word) :
    decode (writeOf off v) = .ok (decodeWrite off v) :=
  (decode_accessKey .write off v).trans (decodeAccess_write ((reservedOffset_iff off).mp h).1 v)

/-- A read at a reserved offset decodes by its block. -/
theorem decodeRead_reserved {off : BitVec 8} (h : ReservedOffset off) :
    decodeRead off =
      if off &&& 0xF3#8 = 0x30#8 then .rdReserved30 off
      else if off &&& 0xC3#8 = 0x40#8 then .rdReserved40 off
      else .rdReserved80 off := by
  have hregister := ((reservedOffset_iff off).mp h).2
  simp only [registerOffsets, List.mem_cons, not_or] at hregister
  simp only [decodeRead, hregister, if_false]

/-- A write at a reserved offset decodes by its block. -/
theorem decodeWrite_reserved {off : BitVec 8} (h : ReservedOffset off) (v : Word) :
    decodeWrite off v =
      if off &&& 0xF3#8 = 0x30#8 then .wrReserved30 off v
      else if off &&& 0xC3#8 = 0x40#8 then .wrReserved40 off v
      else .wrReserved80 off v := by
  have hregister := ((reservedOffset_iff off).mp h).2
  simp only [registerOffsets, List.mem_cons, not_or] at hregister
  simp only [decodeWrite, hregister, if_false]

theorem not_block30_of_block40 {off : BitVec 8} (h : off &&& 0xC3#8 = 0x40#8) : off &&& 0xF3#8 ≠ 0x30#8 := by
  revert off
  decide

theorem not_lower_block_of_block80 {off : BitVec 8} (h : off &&& 0x83#8 = 0x80#8) :
    off &&& 0xF3#8 ≠ 0x30#8 ∧ off &&& 0xC3#8 ≠ 0x40#8 := by
  revert off
  decide

/-! ### From an operation to its encoding and back (R67) -/

/-- Settles O2: the operations with fixed bits evaluate; an operand of a reserved row is decoded by its row's lemma. -/
theorem decodeInvertsEncode : Obligations.DecodeInvertsEncode := by
  intro i h
  cases i with
  | reservedOpAB op => rw [encode, decode_commandWord, commandOf_rowAB false (beq_iff_eq.mp h)]
  | reservedOpCF op => rw [encode, decode_commandWord, commandOf_rowCF false (beq_iff_eq.mp h)]
  | rdReserved30 off =>
    have h30 := beq_iff_eq.mp h
    rw [encode, decode_readOf (.inl h30), decodeRead_reserved (.inl h30), if_pos h30]
  | rdReserved40 off =>
    have h40 := beq_iff_eq.mp h
    rw [encode, decode_readOf (.inr (.inl h40)), decodeRead_reserved (.inr (.inl h40)),
      if_neg (not_block30_of_block40 h40), if_pos h40]
  | rdReserved80 off =>
    have h80 := beq_iff_eq.mp h
    obtain ⟨h30, h40⟩ := not_lower_block_of_block80 h80
    rw [encode, decode_readOf (.inr (.inr h80)), decodeRead_reserved (.inr (.inr h80)), if_neg h30, if_neg h40]
  | wrReserved30 off v =>
    have h30 := beq_iff_eq.mp h
    rw [encode, decode_writeOf (.inl h30), decodeWrite_reserved (.inl h30), if_pos h30]
  | wrReserved40 off v =>
    have h40 := beq_iff_eq.mp h
    rw [encode, decode_writeOf (.inr (.inl h40)), decodeWrite_reserved (.inr (.inl h40)),
      if_neg (not_block30_of_block40 h40), if_pos h40]
  | wrReserved80 off v =>
    have h80 := beq_iff_eq.mp h
    obtain ⟨h30, h40⟩ := not_lower_block_of_block80 h80
    rw [encode, decode_writeOf (.inr (.inr h80)), decodeWrite_reserved (.inr (.inr h80)), if_neg h30, if_neg h40]
  | _ => rfl

/-- Settles O1: each of the words is the encoding of its operation. -/
theorem specWordsDecode : Obligations.SpecWordsDecode := by
  have decodes := decodeInvertsEncode
  exact ⟨decodes .nop rfl, decodes .encode rfl, decodes .padsplit rfl, decodes .interleave rfl, decodes .corrupt rfl,
    decodes .deinterleave rfl, decodes .deinterleaveB rfl, decodes .decode rfl, decodes .run rfl, decodes .runB rfl,
    decodes .clear rfl, decodes (.wrN 3) rfl, decodes .rdStatus rfl⟩

/-- The read of an aligned offset encodes back to it. -/
theorem encode_decodeRead {off : BitVec 8} (h : off.extractLsb' 0 2 = 0#2) :
    (decodeRead off).WellFormed = true ∧ encode (decodeRead off) = readOf off := by
  rcases register_or_reserved h with hregister | hreserved
  · fin_cases hregister <;> exact ⟨rfl, rfl⟩
  · rw [decodeRead_reserved hreserved]
    split_ifs with h30 h40
    · exact ⟨beq_iff_eq.mpr h30, rfl⟩
    · exact ⟨beq_iff_eq.mpr h40, rfl⟩
    · exact ⟨beq_iff_eq.mpr ((hreserved.resolve_left h30).resolve_left h40), rfl⟩

/-- The write of an aligned offset encodes back to it. -/
theorem encode_decodeWrite {off : BitVec 8} (h : off.extractLsb' 0 2 = 0#2) (v : Word) :
    (decodeWrite off v).WellFormed = true ∧ encode (decodeWrite off v) = writeOf off v := by
  rcases register_or_reserved h with hregister | hreserved
  · fin_cases hregister <;> exact ⟨rfl, rfl⟩
  · rw [decodeWrite_reserved hreserved]
    split_ifs with h30 h40
    · exact ⟨beq_iff_eq.mpr h30, rfl⟩
    · exact ⟨beq_iff_eq.mpr h40, rfl⟩
    · exact ⟨beq_iff_eq.mpr ((hreserved.resolve_left h30).resolve_left h40), rfl⟩

/-- Settles O3: an aligned access decodes to what `encode_decodeRead` and `encode_decodeWrite` encode back. -/
theorem everyAlignedAccessIsOneOperation : Obligations.EveryAlignedAccessIsOneOperation := by
  intro dir off v
  refine ⟨fun h4 => ?_, fun h4 => decodeAccess_misaligned h4 dir v⟩
  have haligned := low_bits_of_toNat_mod_four h4
  cases dir with
  | read => exact ⟨_, decodeAccess_read haligned v, encode_decodeRead haligned⟩
  | write => exact ⟨_, decodeAccess_write haligned v, encode_decodeWrite haligned v⟩

/-! ### The commands performed at the CMD write (R60, R70) -/

/-- The opcodes that the engine does not execute: NOP, CLEAR and the reserved ones. -/
theorem immediateOp_cases {op : BitVec 4} (h : op.toNat = 0 ∨ 8 ≤ op.toNat) :
    op = 0x0#4 ∨ op = 0x8#4 ∨ 9 ≤ op.toNat := by
  revert op
  decide

theorem commandOf_reserved {op : BitVec 4} (b : Bool) (h : 9 ≤ op.toNat) :
    commandOf op b ∈ [.reservedOp9, .reservedOpAB op, .reservedOpCF op] := by
  revert op b
  decide

/-- Every reserved opcode records RESERVED_OPCODE, where BUSY does not shut it out (R62, R70). -/
theorem exec_reserved {i : Instr} {op : BitVec 4} (h : i ∈ [.reservedOp9, .reservedOpAB op, .reservedOpCF op])
    (s : State) : exec i s = .next (s.guardBusy fun s => s.recordError .reservedOpcode) := by
  fin_cases h <;> rfl

theorem State.commandWrite_reserved (s : State) {op : BitVec 4} (h : 9 ≤ op.toNat) (b : Bool) :
    s.commandWrite op b = s.recordError .reservedOpcode := if_pos h

/-- The execution of a command that the engine does not execute is what its CMD write does (R60). -/
theorem exec_commandOf_immediate (s : State) {op : BitVec 4} (b : Bool) (h : op.toNat = 0 ∨ 8 ≤ op.toNat) :
    exec (commandOf op b) s = .next (s.guardBusy fun s => s.commandWrite op b) := by
  rcases immediateOp_cases h with rfl | rfl | hreserved
  · rfl
  · rfl
  · simp only [exec_reserved (commandOf_reserved b hreserved), State.commandWrite_reserved _ hreserved]

/-- Settles O24: the CMD write is guarded by BUSY as the command's execution is (`exec_commandOf_immediate`). -/
theorem commandWritePerformsImmediate : Obligations.CommandWritePerformsImmediate := fun s v hop =>
  (exec_commandOf_immediate s (cmdB v) hop).symm

end Sys2Proof.Machine
end

section
/-! The host interface: what each register access does to the block and returns (R70 to R88), and that during BUSY no access
changes what the engine works on (R45, R90, R138). -/

namespace Sys2Proof.Machine

/-! ### The writes that BUSY shuts out (R125) -/

theorem answer_guardBusy_busy {s : State} (hbusy : s.busy = true) (f : State → State) :
    (.next (s.guardBusy f) : Result) = .next s.afterViolation :=
  congrArg Host.Outcome.next (State.guardBusy_busy hbusy f)

theorem answer_guardBusy_idle {s : State} (hidle : s.busy = false) (f : State → State) :
    (.next (s.guardBusy f) : Result) = .next (f s) :=
  congrArg Host.Outcome.next (State.guardBusy_idle hidle f)

/-- The first error stands: a violation writes ERR only from 0 (R121). -/
theorem State.afterViolation_err (s : State) :
    s.afterViolation.err = s.err ∨ (s.err = .noError ∧ s.afterViolation.err = .busyViolation) := by
  by_cases h : s.err = .noError
  · exact .inr ⟨h, if_pos h⟩
  · exact .inl (if_neg h)

/-! ### An access during BUSY (R45, R90, R138) -/

/-- In the host's turn a step that answers a next state executes the access fetched from the inputs (R18). -/
theorem step_hostTurn {s s' : State} {a : Access} {rest : List Input} (hi : s.inputs = .access a :: rest)
    (hturn : ¬ (s.busy = true ∧ s.wait = 0)) (h : step s = .next s') :
    ∃ i, fetchAccess a = .ok i ∧ exec i (s.accept rest) = .next s' := by
  cases hf : fetchAccess a with
  | ok i => exact ⟨i, rfl, (step_access hi hturn hf).symm.trans h⟩
  | error f => simp [step_accessFault hi hturn hf] at h

/-- What an access during BUSY can do: violate, or touch the read port and what the host is given. -/
theorem host_step_busy {s s' : State} {a : Access} {i : Instr} (hbusy : s.busy = true) (hf : fetchAccess a = .ok i)
    (he : exec i s = .next s') :
    s' = s.afterViolation ∨
    ∃ sel idx v d, s' = { s with rdSel := sel, rdIdx := idx, readData := v, draws := d } := by
  have hnotIdle : s.busy ≠ false := by simp [hbusy]
  rcases host_step hf he with
    ⟨-, h⟩ | ⟨_, hidle, -⟩ | ⟨_, hidle, -⟩ | ⟨_, hidle, -⟩ | ⟨_, hidle, -⟩ | ⟨_, hidle, -⟩ |
    ⟨_, -, h⟩ | ⟨_, -, h⟩ | ⟨_, _, h⟩
  · exact .inl h
  · exact absurd hidle hnotIdle
  · exact absurd hidle hnotIdle
  · exact absurd hidle hnotIdle
  · exact absurd hidle hnotIdle
  · exact absurd hidle hnotIdle
  · exact .inr ⟨_, s.rdIdx, s.readData, s.draws, h⟩
  · exact .inr ⟨s.rdSel, _, s.readData, s.draws, h⟩
  · exact .inr ⟨s.rdSel, s.rdIdx, _, _, h⟩

/-- Settles O51: both outcomes of `host_step_busy` keep what the engine works on; ERR is `State.afterViolation_err`'s. -/
theorem busyProtectsTheCommand : Obligations.BusyProtectsTheCommand := by
  intro s s' a rest hbusy hwait hi h
  obtain ⟨i, hf, he⟩ := step_hostTurn hi (fun hturn => hwait hturn.2) h
  rcases host_step_busy (s := s.accept rest) hbusy hf he with rfl | ⟨sel, idx, v, d, rfl⟩
  · exact ⟨rfl, rfl, rfl, rfl, rfl, rfl, rfl, rfl, rfl, rfl, rfl, rfl, hbusy, rfl, rfl, rfl, rfl, rfl,
      (s.accept rest).afterViolation_err⟩
  · exact ⟨rfl, rfl, rfl, rfl, rfl, rfl, rfl, rfl, rfl, rfl, rfl, rfl, hbusy, rfl, rfl, rfl, rfl, rfl, .inl rfl⟩

/-! ### The parameter registers (R71 to R73) -/

theorem exec_wrN_idle {s : State} (hidle : s.busy = false) (v : Word) :
    exec (.wrN v) s = .next (({ s with n := v }).invalidateFrom .FRAME) :=
  answer_guardBusy_idle hidle _

theorem exec_wrM_idle {s : State} (hidle : s.busy = false) (v : Word) :
    exec (.wrM v) s = .next (({ s with m := v }).invalidateFrom .FRAME) :=
  answer_guardBusy_idle hidle _

theorem exec_wrT_idle {s : State} (hidle : s.busy = false) (v : Word) :
    exec (.wrT v) s = .next (({ s with t := v }).invalidateFrom .FRAME) :=
  answer_guardBusy_idle hidle _

/-- Settles O10: BUSY shuts the writes out; an idle block takes the value and invalidates from FRAME on (R37). -/
theorem parameterWritesInvalidate : Obligations.ParameterWritesInvalidate := by
  intro s v
  refine ⟨⟨decodeInvertsEncode (.wrN v) rfl, decodeInvertsEncode (.wrM v) rfl, decodeInvertsEncode (.wrT v) rfl⟩,
    fun hbusy => ?_, fun hidle => ?_⟩
  · have violates := answer_guardBusy_busy hbusy
    exact ⟨violates _, violates _, violates _⟩
  · rw [exec_wrN_idle hidle, exec_wrM_idle hidle, exec_wrT_idle hidle]
    simp only [State.invalidateFrom_FRAME, and_self]

/-! ### The frame port (R63, R77) -/

theorem charBit_eq_none {c : BitVec 8} (h0 : c ≠ 0x30#8) (h1 : c ≠ 0x31#8) : charBit c = none := by
  simp [charBit, h0, h1]

theorem charBit_of_bit (b : Bit) : charBit (if b then 0x31#8 else 0x30#8) = some b := by
  cases b <;> rfl

theorem State.appendChar_of_error {s : State} (herr : s.err ≠ .noError) (c : BitVec 8) : s.appendChar c = s :=
  if_pos herr

theorem State.appendChar_invalid {s : State} {c : BitVec 8} (hnoErr : s.err = .noError) (hc : charBit c = none) :
    s.appendChar c = { s with err := .invalidFrame } := by
  simp [State.appendChar, hnoErr, hc, State.recordError_of_noError hnoErr]

theorem State.appendChar_full {s : State} {c : BitVec 8} {b : Bit} (hnoErr : s.err = .noError)
    (hc : charBit c = some b) (hfull : s.frame.length = s.cfg.capFrame) :
    s.appendChar c = { s with err := .capacity } := by
  simp [State.appendChar, hnoErr, hc, hfull, State.recordError_of_noError hnoErr]

theorem State.appendChar_room {s : State} {c : BitVec 8} {b : Bit} (hnoErr : s.err = .noError)
    (hc : charBit c = some b) (hroom : s.frame.length ≠ s.cfg.capFrame) :
    s.appendChar c = ({ s with frame := s.frame ++ [b] }).invalidateFrom .FRAME := by
  simp [State.appendChar, hnoErr, hc, hroom]

theorem exec_wrFrameIn_idle {s : State} (hidle : s.busy = false) (v : Word) :
    exec (.wrFrameIn v) s = .next (s.appendChar (charField v)) :=
  answer_guardBusy_idle hidle _

/-- Settles O12: one clause for each equation of `State.appendChar`. -/
theorem frameInAppends : Obligations.FrameInAppends := by
  intro s v
  refine ⟨decodeInvertsEncode (.wrFrameIn v) rfl, fun hbusy => answer_guardBusy_busy hbusy _, fun hidle herr => ?_,
    fun hidle hnoErr h0 h1 => ?_, fun b hidle hnoErr hb => ?_⟩
  · rw [exec_wrFrameIn_idle hidle, State.appendChar_of_error herr]
  · have hc : charBit (charField v) = none := charBit_eq_none h0 h1
    rw [exec_wrFrameIn_idle hidle, State.appendChar_invalid hnoErr hc]
  · have hc : charBit (charField v) = some b := (congrArg charBit hb).trans (charBit_of_bit b)
    refine ⟨fun hfull => ?_, fun hroom => ?_⟩
    · rw [exec_wrFrameIn_idle hidle, State.appendChar_full hnoErr hc hfull]
    · rw [exec_wrFrameIn_idle hidle, State.appendChar_room hnoErr hc hroom, State.invalidateFrom_FRAME]

/-! ### Registers read and written at any time (R74 to R81, R84, R85) -/

/-- Settles O13: the two writes have no guard, and each is one field's update. -/
theorem readPortWrites : Obligations.ReadPortWrites := fun _ v =>
  ⟨decodeInvertsEncode (.wrRdSel v) rfl, decodeInvertsEncode (.wrRdIdx v) rfl, rfl, rfl⟩

/-- The zero extension that R79 reads. -/
theorem selWord_eq_ofNat (sel : BitVec 3) : selWord sel = BitVec.ofNat 32 sel.toNat :=
  (BitVec.ofNat_toNat 32 sel).symm

/-- Settles O14: each read returns its register; RD_SEL's word is its zero extension (`selWord_eq_ofNat`). -/
theorem registerReads : Obligations.RegisterReads := by
  intro s
  refine ⟨⟨decodeInvertsEncode .rdN rfl, decodeInvertsEncode .rdM rfl, decodeInvertsEncode .rdT rfl,
    decodeInvertsEncode .rdRdSel rfl, decodeInvertsEncode .rdRdIdx rfl⟩, rfl, rfl, rfl, ?_, rfl⟩
  rw [← selWord_eq_ofNat]
  rfl

/-- A number below 2^32 is read back from its word. -/
theorem toNat_word_of_lt {k : Nat} (h : k < 2 ^ 32) : (BitVec.ofNat 32 k).toNat = k := by
  rw [BitVec.toNat_ofNat, Nat.mod_eq_of_lt h]

/-- Settles O17: a legal capacity fits the word it is read as. -/
theorem capacityReads : Obligations.CapacityReads := by
  intro s hcfg
  obtain ⟨-, ⟨-, hframe⟩, -, hbuf⟩ := hcfg
  exact ⟨⟨decodeInvertsEncode .rdCapFrame rfl, decodeInvertsEncode .rdCapBuf rfl⟩,
    ⟨_, toNat_word_of_lt hframe, rfl⟩, ⟨_, toNat_word_of_lt hbuf, rfl⟩⟩

/-! ### The data port (R64, R82, R83) -/

theorem exec_rdRdData_idle {s : State} (hidle : s.busy = false) :
    exec .rdRdData s = .next (s.returnRead (dataWord (s.bufAt s.rdSel) s.rdIdx.toNat)) := by
  simp [exec, execRdRdData, hidle]

theorem exec_rdRdLen_idle {s : State} (hidle : s.busy = false) :
    exec .rdRdLen s = .next (s.returnRead (lenWord (s.bufAt s.rdSel))) := by
  simp [exec, execRdRdLen, hidle]

/-- During BUSY both reads of the data port return a free value (log 3). -/
theorem exec_dataPort_busy {s : State} (hbusy : s.busy = true) :
    exec .rdRdData s = .next s.returnAny ∧ exec .rdRdLen s = .next s.returnAny := by
  simp [exec, execRdRdData, execRdRdLen, hbusy]

theorem dataWord_outOfRange {x : Bits} {idx : Nat} (h : x.length ≤ idx) : dataWord (some x) idx = 0 := by
  simp [dataWord, List.getElem?_eq_none h]

theorem dataWord_bit {x : Bits} {idx : Nat} {b : Bit} (h : x[idx]? = some b) : dataWord (some x) idx = bitWord b := by
  simp [dataWord, h]

/-- Settles O15: the ids evaluate; an idle block returns `dataWord` of the selected buffer, a busy one a free value. -/
theorem dataRead : Obligations.DataRead := by
  intro s
  refine ⟨decodeInvertsEncode .rdRdData rfl, ⟨rfl, rfl, rfl, rfl, rfl, rfl, rfl, rfl⟩, fun hidle hnone => ?_,
    fun x hidle hx hlen => ?_, fun x b hidle hx hbit => ?_, fun hbusy => ⟨_, (exec_dataPort_busy hbusy).1⟩⟩
  · rw [exec_rdRdData_idle hidle, hnone]
    rfl
  · rw [exec_rdRdData_idle hidle, hx, dataWord_outOfRange hlen]
    rfl
  · rw [exec_rdRdData_idle hidle, hx, dataWord_bit hbit]
    rfl

/-- Settles O16: an idle block returns `lenWord` of the selected buffer, a busy one a free value. -/
theorem lengthRead : Obligations.LengthRead := by
  intro s
  refine ⟨decodeInvertsEncode .rdRdLen rfl, fun hidle hnone => ?_, fun x hidle hx hlen => ?_,
    fun hbusy => ⟨_, (exec_dataPort_busy hbusy).2⟩⟩
  · rw [exec_rdRdLen_idle hidle, hnone]
    rfl
  · refine ⟨BitVec.ofNat 32 x.length, toNat_word_of_lt hlen, ?_⟩
    rw [exec_rdRdLen_idle hidle, hx]
    rfl

/-! ### Accesses without effect and reads of 0 (R87 to R89) -/

theorem exec_ignoredWrite_eq {i : Instr} {o : BitVec 8} {v : Word} (hi : i ∈ ignoredWrites o v) (s : State) :
    exec i s = .next s := by
  obtain ⟨t, ht⟩ := exec_answers_next i s
  rw [ht, exec_ignoredWrites hi ht]

/-- Settles O19: the eight writes are the model's `ignoredWrites`. -/
theorem ignoredWritesHaveNoEffect : Obligations.IgnoredWrites := fun s v _ =>
  ⟨⟨decodeInvertsEncode (.wrStatus v) rfl, decodeInvertsEncode (.wrRdData v) rfl, decodeInvertsEncode (.wrRdLen v) rfl,
    decodeInvertsEncode (.wrCapFrame v) rfl, decodeInvertsEncode (.wrCapBuf v) rfl⟩,
    fun _ hi => exec_ignoredWrite_eq hi s⟩

/-- Settles O20: each of the five reads returns 0 in every state. -/
theorem zeroReads : Obligations.ZeroReads := by
  intro s off
  refine ⟨⟨decodeInvertsEncode .rdCmd rfl, decodeInvertsEncode .rdFrameIn rfl⟩, fun i hi => ?_⟩
  fin_cases hi <;> rfl

/-! ### The CMD write (R70) -/

theorem State.commandWrite_nop (s : State) (b : Bool) : s.commandWrite 0x0#4 b = s := rfl

theorem State.commandWrite_clear (s : State) (b : Bool) : s.commandWrite 0x8#4 b = s.clearAll := rfl

/-- A stage command or RUN is refused in silence while an error stands, and else started (R70, R123). -/
theorem State.commandWrite_engine (s : State) {op : BitVec 4} (hlow : 1 ≤ op.toNat) (hhigh : op.toNat ≤ 7) (b : Bool) :
    s.commandWrite op b = if s.err ≠ .noError then s else s.startCommand op b := by
  have hreserved : ¬ 0x9 ≤ op.toNat := by omega
  have hnop : op ≠ 0x0#4 := by rintro rfl; simp at hlow
  have hclear : op ≠ 0x8#4 := by rintro rfl; simp at hhigh
  rw [State.commandWrite, if_neg hreserved, if_neg hnop, if_neg hclear]

theorem exec_wrCmd_idle {s : State} (hidle : s.busy = false) (v : Word) :
    exec (.wrCmd v) s = .next (s.commandWrite (cmdOp v) (cmdB v)) :=
  answer_guardBusy_idle hidle _

/-- Settles O22: one clause for each equation of `State.commandWrite`. -/
theorem commandWriteStarts : Obligations.CommandWriteStarts := by
  intro s v
  rw [← cmdOp]
  refine ⟨decodeInvertsEncode (.wrCmd v) rfl, fun hbusy => answer_guardBusy_busy hbusy _, fun hidle hop => ?_,
    fun hidle hop => ?_, fun hidle hop => ?_, fun hidle hlow hhigh herr => ?_, fun hidle hlow hhigh hnoErr => ?_⟩
  · rw [exec_wrCmd_idle hidle, State.commandWrite_reserved s hop]
    rfl
  · have hnop : cmdOp v = 0x0#4 := BitVec.eq_of_toNat_eq hop
    rw [exec_wrCmd_idle hidle, hnop, State.commandWrite_nop]
  · have hclear : cmdOp v = 0x8#4 := BitVec.eq_of_toNat_eq hop
    rw [exec_wrCmd_idle hidle, hclear, State.commandWrite_clear]
    exact (answer_guardBusy_idle hidle _).symm
  · rw [exec_wrCmd_idle hidle, State.commandWrite_engine s hlow hhigh, if_pos herr]
  · refine ⟨s.nextLatency, ?_⟩
    rw [exec_wrCmd_idle hidle, State.commandWrite_engine s hlow hhigh, if_neg (not_not.mpr hnoErr)]
    rfl

/-! ### STATUS (R65, R86) -/

/-- STATUS bit by bit: the flags, the error code, and the validity bits with 0 above them. -/
theorem State.statusWord_getLsbD (s : State) (k : Nat) :
    s.statusWord.getLsbD k =
      if k = 0 then s.busy
      else if k = 1 then s.matched
      else if k = 2 then s.bypass
      else if k = 3 then false
      else if k < 8 then s.err.code.getLsbD (k - 4)
      else s.validField.getLsbD (k - 8) := by
  change BitVec.getLsbD (w := 17 + 7 + 4 + 1 + 1 + 1 + 1) _ k = _
  simp only [State.statusWord, BitVec.getLsbD_append]
  match k with
  | 0 | 1 | 2 | 3 => simp
  | k + 4 =>
    have hcode : k + 4 < 8 ↔ k < 4 := by omega
    have hvalid : 7 ≤ k - 4 → s.validField.getLsbD (k - 4) = false := s.validField.getLsbD_of_ge _
    by_cases h : k - 4 < 7
    · simp [hcode, h]
    · simp [hcode, h, hvalid (not_lt.mp h)]

/-- STATUS.VALID bit by bit: each buffer at its id (R21, R29), FRAME always valid (R22). -/
theorem State.validField_getLsbD (s : State) (k : Nat) :
    s.validField.getLsbD k =
      if k = 0 then true
      else if k = 1 then s.redBuf.isSome
      else if k = 2 then s.padBuf.isSome
      else if k = 3 then s.ilvBuf.isSome
      else if k = 4 then s.corBuf.isSome
      else if k = 5 then s.recBuf.isSome
      else if k = 6 then s.decBuf.isSome
      else false := by
  change BitVec.getLsbD (w := 1 + 1 + 1 + 1 + 1 + 1 + 1) _ k = _
  simp only [State.validField, BitVec.getLsbD_append]
  match k with
  | 0 | 1 | 2 | 3 | 4 | 5 | 6 => simp [State.valid, State.buf]
  | k + 7 => simp

theorem State.statusWord_error (s : State) : s.statusWord.extractLsb' 4 4 = s.err.code := by
  refine BitVec.eq_of_getLsbD_eq fun i hi => ?_
  have hlow : 4 + i < 8 := by omega
  have hflag : 4 + i ≠ 1 ∧ 4 + i ≠ 2 ∧ 4 + i ≠ 3 := by omega
  rw [BitVec.getLsbD_extractLsb', State.statusWord_getLsbD]
  simp [hi, hlow, hflag]

theorem State.statusWord_high (s : State) {k : Nat} (hk : 15 ≤ k) : s.statusWord.getLsbD k = false := by
  obtain ⟨j, rfl⟩ := Nat.exists_eq_add_of_le' hk
  have hbeyond : s.validField.getLsbD (j + 7) = false := s.validField.getLsbD_of_ge _ (Nat.le_add_left 7 j)
  exact (s.statusWord_getLsbD (j + 15)).trans hbeyond

/-- Settles O18: the bits of STATUS and of its validity field, one by one, and the code of each error (R120). -/
theorem statusRead : Obligations.StatusRead := by
  intro s
  have bit := s.statusWord_getLsbD
  have valid := s.validField_getLsbD
  refine ⟨s.statusWord, decodeInvertsEncode .rdStatus rfl, rfl, bit 0, bit 1, bit 2, bit 3, ?_,
    (bit 8).trans (valid 0), (bit 9).trans (valid 1), (bit 10).trans (valid 2), (bit 11).trans (valid 3),
    (bit 12).trans (valid 4), (bit 13).trans (valid 5), (bit 14).trans (valid 6), fun _ => s.statusWord_high⟩
  rw [s.statusWord_error]
  cases s.err <;> rfl

end Sys2Proof.Machine
end

section
/-! The repetition encoder: the bits and the laws of `encode` (R91, R93), and the command ENCODE (R92). -/

namespace Sys2Proof.Machine

/-! ### The function (R91, R93) -/

namespace Datapath

/-- Index `i` of the result lies in the copies of the bit at `i / n`; past the end neither side has a bit (R91). -/
theorem getElem?_encode (f : Bits) {n : Nat} (hn : 1 ≤ n) (i : Nat) : (encode f n)[i]? = f[i / n]? := by
  induction f generalizing i with
  | nil => rfl
  | cons b f ih =>
    rw [encode_cons]
    by_cases hi : i < n
    · rw [List.getElem?_append_left (by simpa using hi), Nat.div_eq_of_lt hi]
      simp [hi]
    · rw [List.getElem?_append_right (by simpa using hi), List.length_replicate, ih, Nat.div_eq_sub_div hn (not_lt.mp hi),
        List.getElem?_cons_succ]

theorem encode_one (f : Bits) : encode f 1 = f := List.flatMap_singleton' f

theorem encode_append (f g : Bits) (n : Nat) : encode (f ++ g) n = encode f n ++ encode g n := List.flatMap_append

/-- The `i`-th window of `n` bits holds the copies of the `i`-th bit. -/
theorem slice_encode {f : Bits} {n i : Nat} {b : Bit} (hn : 1 ≤ n) (hb : f[i]? = some b) :
    slice (encode f n) (i * n) n = List.replicate n b := by
  refine List.ext_getElem? fun k => ?_
  by_cases hk : k < n
  · have hwindow : (i * n + k) / n = i := by
      rw [Nat.mul_comm, Nat.mul_add_div hn, Nat.div_eq_of_lt hk, Nat.add_zero]
    rw [getElem?_slice _ _ hk, getElem?_encode f hn, hwindow, hb, List.getElem?_replicate_of_lt hk]
  · have hshort : (slice (encode f n) (i * n) n).length ≤ k := by
      rw [length_slice]
      omega
    rw [List.getElem?_eq_none hshort, List.getElem?_eq_none (by simpa using hk)]

/-- Settles O37: the laws of R93, each by its lemma; the window law is `slice_encode`. -/
theorem encoderLaws : Obligations.EncoderLaws := fun f g n hn =>
  ⟨length_encode f n, rfl, encode_one f, encode_append f g n, fun _ _ => slice_encode hn⟩

end Datapath

/-! ### The command (R92) -/

theorem decodeCommand_of_cmdOp {w : Word} {op : BitVec 4} (h : cmdOp w = op) : decodeCommand w = commandOf op (cmdB w) := by
  rw [decodeCommand, h]

/-- A command that raises an error leaves the state of R121. -/
theorem State.complete_error_eq_afterError (s : State) (c : ErrorCode) : s.complete (.error c) = s.afterError c := rfl

theorem exec_encode (s : State) : exec .encode s = .next (s.complete s.encodeStage) := rfl

theorem State.encodeStage_invalidParameter {s : State} (h : ¬ s.ParamsOk) : s.encodeStage = .error .invalidParameter :=
  if_pos h

theorem State.encodeStage_capacity {s : State} (hp : s.ParamsOk) (hover : s.cfg.capBuf < s.frame.length * s.n.toNat) :
    s.encodeStage = .error .capacity := by
  rw [State.encodeStage, if_neg (not_not.mpr hp), if_pos hover]

theorem State.encodeStage_ok {s : State} (hp : s.ParamsOk) (hfits : s.frame.length * s.n.toNat ≤ s.cfg.capBuf) :
    s.encodeStage = .ok (({ s with redBuf := some s.expRed }).invalidateFrom .RED) := by
  rw [State.encodeStage, if_neg (not_not.mpr hp), if_neg (not_lt.mpr hfits)]
  rfl

/-- Settles O25: the stage's answer in each case (the lemmas `encodeStage_…`), completed by the engine; RED is `expRed`, whose bits
`getElem?_encode` gives. -/
theorem encodeCommand : Obligations.EncodeCommand := by
  refine ⟨fun w => decodeCommand_of_cmdOp, fun s => ⟨fun hp => ?_, fun hp hover => ?_, fun hp hfits => ?_⟩⟩
  · rw [exec_encode, State.encodeStage_invalidParameter hp, s.complete_error_eq_afterError]
  · rw [exec_encode, State.encodeStage_capacity hp hover, s.complete_error_eq_afterError]
  · refine ⟨s.expRed, s.length_expRed, fun i _ => Datapath.getElem?_encode s.frame hp.1 i, ?_⟩
    rw [exec_encode, State.encodeStage_ok hp hfits, State.invalidateFrom_RED, State.complete_ok]

end Sys2Proof.Machine
end

section
/-! The padder and splitter: the laws of `pad` and of `groups` (R94, R95, R97), and the command PADSPLIT (R96). -/

namespace Sys2Proof.Machine

/-! ### The functions (R94, R95, R97) -/

namespace Datapath

/-- Rounding up leaves exactly the multiples. -/
theorem roundUp_eq_self_iff (a : Nat) {g : Nat} (hg : 1 ≤ g) : roundUp a g = a ↔ a % g = 0 := by
  rw [← Nat.dvd_iff_mod_eq_zero]
  constructor
  · intro h
    exact h ▸ dvd_roundUp a g
  · intro h
    exact (eq_roundUp hg h le_rfl (Nat.lt_add_of_pos_right hg)).symm

theorem take_pad (r : Bits) (g : Nat) : (pad r g).take r.length = r := List.take_left

/-- From the end of `r` on the bits of the padded sequence are 0. -/
theorem getElem?_pad_of_le {r : Bits} {g i : Nat} (hr : r.length ≤ i) (hi : i < (pad r g).length) :
    (pad r g)[i]? = some false := by
  rw [pad, List.length_append, List.length_replicate] at hi
  rw [pad, List.getElem?_append_right hr, List.getElem?_replicate_of_lt (by omega)]

/-- Every group is whole: it ends within `p`. -/
theorem length_of_mem_groups {p x : Bits} {g : Nat} (hx : x ∈ groups p g) : x.length = g := by
  obtain ⟨k, hk, rfl⟩ := List.mem_map.mp hx
  have hend : k * g + g ≤ p.length := by
    calc k * g + g = (k + 1) * g := (Nat.succ_mul k g).symm
      _ ≤ p.length / g * g := Nat.mul_le_mul_right g (List.mem_range.mp hk)
      _ ≤ p.length := Nat.div_mul_le_self _ _
  rw [length_slice]
  omega

/-- The groups of a buffer of whole groups, one after the other, are the buffer: group work (`flatMap`) with the identity. -/
theorem flatten_groups {p : Bits} {g : Nat} (hg : 1 ≤ g) (hp : p.length % g = 0) : (groups p g).flatten = p := by
  rw [← List.flatMap_id]
  have hlen : ((groups p g).flatMap id).length = p.length := length_flatMap_groups id (fun _ hx => hx) hp
  refine List.ext_getElem? fun i => ?_
  by_cases hi : i < p.length
  · rw [getElem?_flatMap_groups id (fun _ hx => hx) hp hi, id_eq, getElem?_slice _ _ (Nat.mod_lt i hg), Nat.div_add_mod']
  · rw [List.getElem?_eq_none (by omega), List.getElem?_eq_none (by omega)]

theorem length_groups_pad (r : Bits) {g : Nat} (hg : 1 ≤ g) : (groups (pad r g) g).length = ceilDiv r.length g := by
  rw [length_groups, length_pad_eq r hg, roundUp, Nat.mul_div_cancel _ hg]

/-- Settles O38: the padded length is `roundUp` (`length_pad_eq`), so the lemmas on rounding give the laws of lengths; the
others each by its lemma. -/
theorem padderLaws : Obligations.PadderLaws := by
  intro r g hg p
  have hlen : p.length = roundUp r.length g := length_pad_eq r hg
  have hwhole : p.length % g = 0 := hlen ▸ Nat.mod_eq_zero_of_dvd (dvd_roundUp _ _)
  refine ⟨hwhole, ?_, ?_, take_pad r g, fun _ => getElem?_pad_of_le, ?_, fun _ => length_of_mem_groups,
    length_groups_pad r hg, flatten_groups hg hwhole⟩
  · rw [hlen]
    exact le_roundUp _ hg
  · rw [hlen]
    exact roundUp_lt _ hg
  · rw [hlen]
    exact roundUp_eq_self_iff _ hg

end Datapath

/-! ### The command (R96) -/

theorem exec_padsplit (s : State) : exec .padsplit s = .next (s.complete s.padsplitStage) := rfl

theorem State.padsplitStage_invalidParameter {s : State} (h : ¬ s.ParamsOk) :
    s.padsplitStage = .error .invalidParameter := if_pos h

theorem State.padsplitStage_sequence {s : State} (hp : s.ParamsOk) (hr : s.redBuf = none) :
    s.padsplitStage = .error .sequence := by
  rw [State.padsplitStage, if_neg (not_not.mpr hp), hr]

theorem State.padsplitStage_capacity {s : State} {r : Bits} (hp : s.ParamsOk) (hr : s.redBuf = some r)
    (hover : s.cfg.capBuf < Datapath.roundUp r.length s.groupSize) : s.padsplitStage = .error .capacity := by
  rw [State.padsplitStage, if_neg (not_not.mpr hp), hr]
  exact if_pos hover

theorem State.padsplitStage_ok {s : State} {r : Bits} (hp : s.ParamsOk) (hr : s.redBuf = some r)
    (hfits : Datapath.roundUp r.length s.groupSize ≤ s.cfg.capBuf) :
    s.padsplitStage = .ok (({ s with padBuf := some (Datapath.pad r s.groupSize) }).invalidateFrom .PAD) := by
  rw [State.padsplitStage, if_neg (not_not.mpr hp), hr]
  exact if_neg (not_lt.mpr hfits)

/-- Settles O26: the stage's answer in each case (the lemmas `padsplitStage_…`), completed by the engine; P is RED's length
rounded up, the one multiple of M*T in its range (`eq_roundUp`). -/
theorem padsplitCommand : Obligations.PadsplitCommand := by
  refine ⟨fun w => decodeCommand_of_cmdOp, fun s => ⟨fun hp => ?_, fun hp hr => ?_, fun r P hp hr hdvd hle hlt => ?_⟩⟩
  · rw [exec_padsplit, State.padsplitStage_invalidParameter hp, s.complete_error_eq_afterError]
  · rw [exec_padsplit, State.padsplitStage_sequence hp hr, s.complete_error_eq_afterError]
  · obtain rfl : P = Datapath.roundUp r.length s.groupSize := Datapath.eq_roundUp hp.one_le_groupSize hdvd hle hlt
    refine ⟨fun hover => ?_, fun hfits => ?_⟩
    · rw [exec_padsplit, State.padsplitStage_capacity hp hr hover, s.complete_error_eq_afterError]
    · rw [exec_padsplit, State.padsplitStage_ok hp hr hfits, State.invalidateFrom_PAD, State.complete_ok, Datapath.pad]

end Sys2Proof.Machine
end

section
/-! The interleaver: the position map and the laws of `interleaveGroup` (R98, R101), the bits of `interleave` (R99), and the command
INTERLEAVE (R100). -/

namespace Sys2Proof.Machine

/-! ### The transposition of one group (R98, R101) -/

namespace Datapath

/-- The row of an index that is laid out row by row. -/
theorem mul_add_div_of_lt {a b c : Nat} (h : c < b) : (a * b + c) / b = a := by
  rw [Nat.mul_comm, Nat.mul_add_div (Nat.zero_lt_of_lt h), Nat.div_eq_of_lt h, Nat.add_zero]

/-- An index laid out row by row stays within the rows. -/
theorem mul_add_lt_mul {m t j k : Nat} (hj : j < m) (hk : k < t) : j * t + k < m * t := by
  rw [Nat.mul_comm j t]
  exact Nat.mul_add_lt_mul_of_lt_of_lt hj hk

/-- The index of a group whose bit the interleaver puts at index `v` (R101, the inverse position map). -/
def interleaveSource (m t v : Nat) : Nat := v % t * m + v / t

/-- Row `j`, column `k` of the output is row `k`, column `j` of the group. -/
theorem interleaveSource_mul_add (m j : Nat) {t k : Nat} (hk : k < t) : interleaveSource m t (j * t + k) = k * m + j := by
  rw [interleaveSource, mul_add_div_of_lt hk, Nat.mul_add_mod_of_lt hk]

/-- The position map stays within the group. -/
theorem mul_add_lt_group {m t j k : Nat} (hj : j < m) (hk : k < t) : k * m + j < m * t :=
  Nat.mul_comm t m ▸ mul_add_lt_mul hk hj

theorem getElem?_interleaveGroup_mul_add {x : Bits} {m t j k : Nat} (hx : x.length = m * t) (hj : j < m) (hk : k < t) :
    (interleaveGroup x m t)[j * t + k]? = x[k * m + j]? := by
  rw [getElem?_interleaveGroup x hj hk, getElem?_eq_bitAt (hx ▸ mul_add_lt_group hj hk)]

theorem getElem?_interleaveGroup_source {x : Bits} {m t v : Nat} (hx : x.length = m * t) (hv : v < m * t) :
    (interleaveGroup x m t)[v]? = x[interleaveSource m t v]? := by
  have ht : 0 < t := Nat.pos_of_mul_pos_left (Nat.zero_lt_of_lt hv)
  have hj : v / t < m := Nat.div_lt_of_lt_mul (Nat.mul_comm m t ▸ hv)
  have h := getElem?_interleaveGroup_mul_add hx hj (Nat.mod_lt v ht)
  rwa [Nat.div_add_mod'] at h

/-- The sub-words of `m` bits, one after the other, are the group. -/
theorem subwords_eq {x : Bits} {m t : Nat} (hx : x.length = m * t) :
    ((List.range t).flatMap fun k => (List.range m).map fun j => bitAt x (k * m + j)) = x := by
  obtain ⟨hlen, hget⟩ := rows_spec (fun k j => bitAt x (k * m + j)) t m
  refine List.ext_getElem? fun i => ?_
  by_cases hi : i < m * t
  · have hm : 0 < m := Nat.pos_of_mul_pos_right (Nat.zero_lt_of_lt hi)
    have h := hget (i / m) (i % m) (Nat.div_lt_of_lt_mul hi) (Nat.mod_lt i hm)
    rw [Nat.div_add_mod'] at h
    rw [h, getElem?_eq_bitAt (hx ▸ hi)]
  · rw [List.getElem?_eq_none (by rw [hlen, Nat.mul_comm]; omega), List.getElem?_eq_none (by omega)]

/-- Reading a matrix of bits by columns instead of by rows only reorders it. -/
theorem rows_perm_columns (f : Nat → Nat → Bit) (m t : Nat) :
    ((List.range m).flatMap fun j => (List.range t).map fun k => f j k).Perm
      ((List.range t).flatMap fun k => (List.range m).map fun j => f j k) := by
  rw [← Multiset.coe_eq_coe, ← Multiset.coe_bind, ← Multiset.coe_bind]
  exact Multiset.bind_map_comm (List.range m : Multiset Nat) (List.range t : Multiset Nat)

theorem interleaveGroup_perm {x : Bits} {m t : Nat} (hx : x.length = m * t) : (interleaveGroup x m t).Perm x := by
  have h := rows_perm_columns (fun j k => bitAt x (k * m + j)) m t
  rwa [subwords_eq hx] at h

/-- Where every index is its own source, the group is unchanged. -/
theorem interleaveGroup_eq_self {x : Bits} {m t : Nat} (hx : x.length = m * t)
    (hfix : ∀ v, v < m * t → interleaveSource m t v = v) : interleaveGroup x m t = x := by
  refine List.ext_getElem? fun v => ?_
  by_cases hv : v < m * t
  · rw [getElem?_interleaveGroup_source hx hv, hfix v hv]
  · rw [List.getElem?_eq_none (by simpa using hv), List.getElem?_eq_none (by omega)]

theorem interleaveSource_t_one (m v : Nat) : interleaveSource m 1 v = v := by
  simp [interleaveSource, Nat.mod_one]

theorem interleaveSource_m_one {t v : Nat} (hv : v < t) : interleaveSource 1 t v = v := by
  rw [interleaveSource, Nat.mod_eq_of_lt hv, Nat.div_eq_of_lt hv, Nat.mul_one, Nat.add_zero]

/-- Neighbours in one output string stand in the same row, so their sources are one sub-word apart. -/
theorem interleaveSource_succ (m : Nat) {t v : Nat} (ht : 1 ≤ t) (hv : (v + 1) % t ≠ 0) :
    interleaveSource m t (v + 1) = interleaveSource m t v + m := by
  have hsplit : v + 1 = v / t * t + (v % t + 1) := by rw [← Nat.add_assoc, Nat.div_add_mod']
  have hrow : v % t + 1 < t := by
    refine lt_of_le_of_ne (Nat.mod_lt v ht) fun hend => hv ?_
    rw [hsplit, hend, Nat.mul_add_mod_self_right, Nat.mod_self]
  rw [hsplit, interleaveSource_mul_add m _ hrow, interleaveSource, Nat.succ_mul]
  omega

/-- Settles O39: the permutation is the exchange of the two readings of a matrix (`rows_perm_columns`); the other laws follow from
the position map `interleaveSource`. -/
theorem interleaverLaws : Obligations.InterleaverLaws := by
  intro x m t _ ht hx y
  have hperm : y.Perm x := interleaveGroup_perm hx
  refine ⟨hperm, fun j k => getElem?_interleaveGroup_mul_add hx, fun v => getElem?_interleaveGroup_source hx,
    length_interleaveGroup x m t, hperm.count_eq true, ?_, ?_, fun v _ => interleaveSource_succ m ht⟩
  · rintro rfl
    exact interleaveGroup_eq_self hx fun v _ => interleaveSource_t_one m v
  · rintro rfl
    exact interleaveGroup_eq_self hx fun v hv => interleaveSource_m_one (Nat.one_mul t ▸ hv)

/-! ### Whole buffers (R99) -/

/-- A block map applied group by group, at place `r` of group `q`. -/
theorem getElem?_flatMap_groups_mul_add (f : Bits → Bits) {p : Bits} {g q r : Nat}
    (hf : ∀ x : Bits, x.length = g → (f x).length = g) (hp : p.length % g = 0) (hr : r < g) (hq : (q + 1) * g ≤ p.length) :
    ((groups p g).flatMap f)[q * g + r]? = (f (slice p (q * g) g))[r]? := by
  rw [Nat.succ_mul] at hq
  rw [getElem?_flatMap_groups f hf hp (by omega), mul_add_div_of_lt hr, Nat.mul_add_mod_of_lt hr]

theorem length_slice_group {p : Bits} {g q : Nat} (hq : (q + 1) * g ≤ p.length) : (slice p (q * g) g).length = g := by
  rw [Nat.succ_mul] at hq
  rw [length_slice]
  omega

/-- The position map of R98 in every group of a buffer. -/
theorem getElem?_interleave {p : Bits} {m t q j k : Nat} (hp : p.length % (m * t) = 0) (hj : j < m) (hk : k < t)
    (hq : (q + 1) * (m * t) ≤ p.length) :
    (interleave p m t)[q * (m * t) + j * t + k]? = p[q * (m * t) + k * m + j]? := by
  rw [Nat.add_assoc, Nat.add_assoc, interleave,
    getElem?_flatMap_groups_mul_add _ (fun _ _ => length_interleaveGroup _ _ _) hp
      (mul_add_lt_mul hj hk) hq,
    getElem?_interleaveGroup_mul_add (length_slice_group hq) hj hk, getElem?_slice _ _ (mul_add_lt_group hj hk)]

end Datapath

/-! ### The command (R100) -/

theorem exec_interleave (s : State) : exec .interleave s = .next (s.complete s.interleaveStage) := rfl

theorem State.interleaveStage_invalidParameter {s : State} (h : ¬ s.ParamsOk) :
    s.interleaveStage = .error .invalidParameter := if_pos h

theorem State.interleaveStage_sequence {s : State} (hp : s.ParamsOk) (hpad : s.padBuf = none) :
    s.interleaveStage = .error .sequence := by
  rw [State.interleaveStage, if_neg (not_not.mpr hp), hpad]

theorem State.interleaveStage_dimensionMismatch {s : State} {p : Bits} (hp : s.ParamsOk) (hpad : s.padBuf = some p)
    (hpartial : p.length % s.groupSize ≠ 0) : s.interleaveStage = .error .dimensionMismatch := by
  rw [State.interleaveStage, if_neg (not_not.mpr hp), hpad]
  exact if_pos hpartial

theorem State.interleaveStage_ok {s : State} {p : Bits} (hp : s.ParamsOk) (hpad : s.padBuf = some p)
    (hwhole : p.length % s.groupSize = 0) :
    s.interleaveStage = .ok (({ s with ilvBuf := some (Datapath.interleave p s.m.toNat s.t.toNat) }).invalidateFrom .ILV) := by
  rw [State.interleaveStage, if_neg (not_not.mpr hp), hpad]
  exact if_neg (not_not.mpr hwhole)

/-- Settles O27: the stage's answer in each case (the lemmas `interleaveStage_…`), completed by the engine; the bits of ILV are
given by `getElem?_interleave`. -/
theorem interleaveCommand : Obligations.InterleaveCommand := by
  refine ⟨fun w => decodeCommand_of_cmdOp,
    fun s => ⟨fun hp => ?_, fun hp hpad => ?_, fun p hp hpad hpartial => ?_, fun p hp hpad hwhole => ?_⟩⟩
  · rw [exec_interleave, State.interleaveStage_invalidParameter hp, s.complete_error_eq_afterError]
  · rw [exec_interleave, State.interleaveStage_sequence hp hpad, s.complete_error_eq_afterError]
  · rw [exec_interleave, State.interleaveStage_dimensionMismatch hp hpad hpartial, s.complete_error_eq_afterError]
  · refine ⟨Datapath.interleave p s.m.toNat s.t.toNat, Datapath.length_interleave hwhole,
      fun _ _ _ hj hk => Datapath.getElem?_interleave hwhole hj hk, ?_⟩
    rw [exec_interleave, State.interleaveStage_ok hp hpad hwhole, State.invalidateFrom_ILV, State.complete_ok]

end Sys2Proof.Machine
end

section
/-! The channel: the bits and the laws of `corruptGroup` and `corrupt` (R103, R104, R106), and the command CORRUPT (R105). -/

namespace Sys2Proof.Machine

/-! ### The functions (R103, R104) -/

namespace Datapath

/-- Two complements cancel at the flipped places; the others are never touched (R106). -/
theorem corruptGroup_corruptGroup (x : Bits) : corruptGroup (corruptGroup x) = x := by
  refine List.ext_getElem? fun i => ?_
  simp only [getElem?_corruptGroup]
  by_cases hi : i = 1 ∨ i = 2
  · simp [hi, Function.comp_def]
  · simp [hi]

/-- A buffer of whole groups through the channel, at an index: R103 at the index's place in its group. -/
theorem getElem?_corrupt {s : Bits} {g i : Nat} (hg : 1 ≤ g) (hs : s.length % g = 0) (hi : i < s.length) :
    (corrupt s g)[i]? = if i % g = 1 ∨ i % g = 2 then s[i]?.map (!·) else s[i]? := by
  rw [corrupt, getElem?_flatMap_groups _ (fun x hx => by rw [length_corruptGroup, hx]) hs hi, getElem?_corruptGroup,
    getElem?_slice _ _ (Nat.mod_lt i hg), Nat.div_add_mod']

/-! ### Where the flips are, and how many (R106) -/

/-- A bit that exists differs from its complement, so a conditional flip shows exactly where its condition holds. -/
theorem flipIf_ne_iff (P : Prop) [Decidable P] {x : Bits} {i : Nat} (hi : i < x.length) :
    (if P then x[i]?.map (!·) else x[i]?) ≠ x[i]? ↔ P := by
  by_cases h : P
  · simp [h, hi]
  · simp [h]

theorem corruptGroup_ne_iff {x : Bits} {i : Nat} (hi : i < x.length) :
    (corruptGroup x)[i]? ≠ x[i]? ↔ i = 1 ∨ i = 2 := by
  rw [getElem?_corruptGroup, flipIf_ne_iff _ hi]

theorem corrupt_ne_iff {s : Bits} {g i : Nat} (hg : 1 ≤ g) (hs : s.length % g = 0) (hi : i < s.length) :
    (corrupt s g)[i]? ≠ s[i]? ↔ i % g = 1 ∨ i % g = 2 := by
  rw [getElem?_corrupt hg hs hi, flipIf_ne_iff _ hi]

/-- Where the differing indices are known, their number is a count of indices. -/
theorem length_filter_ne_eq_count {x y : Bits} {P : Nat → Prop} [DecidablePred P]
    (h : ∀ i, i < x.length → (y[i]? ≠ x[i]? ↔ P i)) :
    ((List.range x.length).filter fun i => y[i]? != x[i]?).length = Nat.count P x.length := by
  rw [← List.countP_eq_length_filter, Nat.count]
  refine List.countP_congr fun i hi => ?_
  rw [bne_iff_ne, decide_eq_true_iff, h i (List.mem_range.mp hi)]

/-- Of the first `len` places, those at 1 and 2 that exist. -/
theorem count_flipped (len : Nat) : Nat.count (fun i => i = 1 ∨ i = 2) len = min (len - 1) 2 := by
  induction len with
  | zero => rfl
  | succ len ih =>
    rw [Nat.count_succ, ih]
    split <;> omega

/-- Two conditions that agree on the first `len` places hold at equally many of them. -/
theorem count_congr_below {P Q : Nat → Prop} [DecidablePred P] [DecidablePred Q] {len : Nat}
    (h : ∀ i, i < len → (P i ↔ Q i)) : Nat.count P len = Nat.count Q len :=
  le_antisymm (Nat.count_mono_left fun i hi => (h i hi).mp) (Nat.count_mono_left fun i hi => (h i hi).mpr)

/-- Each of `q` groups of `g` bits has the flips of one group. -/
theorem count_flipped_groups (q g : Nat) :
    Nat.count (fun i => i % g = 1 ∨ i % g = 2) (q * g) = q * min (g - 1) 2 := by
  induction q with
  | zero => simp
  | succ q ih =>
    have hlast : Nat.count (fun r => (q * g + r) % g = 1 ∨ (q * g + r) % g = 2) g = min (g - 1) 2 := by
      rw [← count_flipped]
      exact count_congr_below fun r hr => by rw [Nat.mul_add_mod_of_lt hr]
    rw [Nat.succ_mul, Nat.count_add, ih, hlast, Nat.succ_mul]

/-- Settles O40: the flips are where `corruptGroup_ne_iff` and `corrupt_ne_iff` put them, so their numbers are `count_flipped` and
`count_flipped_groups`. -/
theorem channelLaws : Obligations.ChannelLaws := by
  refine ⟨corruptGroup_corruptGroup, fun x _ => ?_, fun s g hg hs => ⟨fun i => corrupt_ne_iff hg hs, fun hg3 => ?_⟩⟩
  · rw [length_filter_ne_eq_count fun i => corruptGroup_ne_iff, count_flipped]
  · have hwhole : s.length / g * g = s.length := Nat.div_mul_cancel (Nat.dvd_of_mod_eq_zero hs)
    have hpair : min (g - 1) 2 = 2 := by omega
    calc ((List.range s.length).filter fun i => (corrupt s g)[i]? != s[i]?).length
      _ = Nat.count (fun i => i % g = 1 ∨ i % g = 2) s.length := length_filter_ne_eq_count fun i => corrupt_ne_iff hg hs
      _ = Nat.count (fun i => i % g = 1 ∨ i % g = 2) (s.length / g * g) := by rw [hwhole]
      _ = 2 * (s.length / g) := by rw [count_flipped_groups, hpair, Nat.mul_comm]

end Datapath

/-! ### The command (R105) -/

theorem exec_corrupt (s : State) : exec .corrupt s = .next (s.complete s.corruptStage) := rfl

theorem State.corruptStage_invalidParameter {s : State} (h : ¬ s.ParamsOk) :
    s.corruptStage = .error .invalidParameter := if_pos h

theorem State.corruptStage_sequence {s : State} (hp : s.ParamsOk) (hilv : s.ilvBuf = none) :
    s.corruptStage = .error .sequence := by
  rw [State.corruptStage, if_neg (not_not.mpr hp), hilv]

theorem State.corruptStage_dimensionMismatch {s : State} {x : Bits} (hp : s.ParamsOk) (hilv : s.ilvBuf = some x)
    (hpartial : x.length % s.groupSize ≠ 0) : s.corruptStage = .error .dimensionMismatch := by
  rw [State.corruptStage, if_neg (not_not.mpr hp), hilv]
  exact if_pos hpartial

theorem State.corruptStage_ok {s : State} {x : Bits} (hp : s.ParamsOk) (hilv : s.ilvBuf = some x)
    (hwhole : x.length % s.groupSize = 0) :
    s.corruptStage = .ok (({ s with corBuf := some (Datapath.corrupt x s.groupSize) }).invalidateFrom .COR) := by
  rw [State.corruptStage, if_neg (not_not.mpr hp), hilv]
  exact if_neg (not_not.mpr hwhole)

/-- Settles O28: the stage's answer in each case (the lemmas `corruptStage_…`), completed by the engine; the bits of COR are
given by `getElem?_corrupt`. -/
theorem corruptCommand : Obligations.CorruptCommand := by
  refine ⟨fun w => decodeCommand_of_cmdOp,
    fun s => ⟨fun hp => ?_, fun hp hilv => ?_, fun x hp hilv hpartial => ?_, fun x hp hilv hwhole => ?_⟩⟩
  · rw [exec_corrupt, State.corruptStage_invalidParameter hp, s.complete_error_eq_afterError]
  · rw [exec_corrupt, State.corruptStage_sequence hp hilv, s.complete_error_eq_afterError]
  · rw [exec_corrupt, State.corruptStage_dimensionMismatch hp hilv hpartial, s.complete_error_eq_afterError]
  · refine ⟨Datapath.corrupt x s.groupSize, Datapath.length_corrupt hwhole,
      fun _ => Datapath.getElem?_corrupt hp.one_le_groupSize hwhole, ?_⟩
    rw [exec_corrupt, State.corruptStage_ok hp hilv hwhole, State.invalidateFrom_COR, State.complete_ok]

end Sys2Proof.Machine
end

section
/-! The deinterleaver: the bits of `deinterleave` (R107, R108), that it undoes the interleaver (R110), where the channel's flips
land in REC (R111), and the command DEINTERLEAVE with the channel taken or skipped (R109). -/

namespace Sys2Proof.Machine

namespace Datapath

/-! ### The transposition undone (R107, R110) -/

/-- Transposing with the dimensions exchanged undoes the transposition. -/
theorem interleaveGroup_interleaveGroup {x : Bits} {m t : Nat} (hx : x.length = m * t) :
    interleaveGroup (interleaveGroup x m t) t m = x := by
  refine List.ext_getElem? fun v => ?_
  by_cases hv : v < m * t
  · have hcol : v % m < m := Nat.mod_lt v (Nat.pos_of_mul_pos_right (Nat.zero_lt_of_lt hv))
    have hrow : v / m < t := Nat.div_lt_of_lt_mul hv
    calc (interleaveGroup (interleaveGroup x m t) t m)[v]?
      _ = (interleaveGroup x m t)[v % m * t + v / m]? :=
          getElem?_interleaveGroup_source (by rw [length_interleaveGroup, Nat.mul_comm]) (Nat.mul_comm m t ▸ hv)
      _ = x[v / m * m + v % m]? := getElem?_interleaveGroup_mul_add hx hcol hrow
      _ = x[v]? := by rw [Nat.div_add_mod']
  · rw [List.getElem?_eq_none (by rw [length_interleaveGroup, Nat.mul_comm]; omega), List.getElem?_eq_none (by omega)]

/-! ### Whole buffers (R108) -/

/-- Over whole buffers too the inverse is the transpose with the dimensions exchanged. -/
theorem deinterleave_eq_interleave (s : Bits) (m t : Nat) : deinterleave s m t = interleave s t m := by
  unfold deinterleave interleave
  rw [Nat.mul_comm t m]
  rfl

/-- The position map of R107 in every group of a buffer. -/
theorem getElem?_deinterleave {s : Bits} {m t q r c : Nat} (hs : s.length % (m * t) = 0) (hr : r < t) (hc : c < m)
    (hq : (q + 1) * (m * t) ≤ s.length) :
    (deinterleave s m t)[q * (m * t) + r * m + c]? = s[q * (m * t) + c * t + r]? := by
  rw [deinterleave_eq_interleave]
  rw [Nat.mul_comm m t] at hs hq ⊢
  exact getElem?_interleave hs hr hc hq

/-- An index of a buffer of whole groups is column `c` of row `r` of a group, the rows being its sub-words. -/
theorem exists_place_of_lt {m t len i : Nat} (hlen : len % (m * t) = 0) (hi : i < len) :
    ∃ q r c, r < t ∧ c < m ∧ (q + 1) * (m * t) ≤ len ∧ i = q * (m * t) + r * m + c := by
  have hpos : 0 < m * t := Nat.pos_of_ne_zero fun h => by rw [h, Nat.mod_zero] at hlen; omega
  have hwhole : len / (m * t) * (m * t) = len := Nat.div_mul_cancel (Nat.dvd_of_mod_eq_zero hlen)
  have hplace : i % (m * t) < m * t := Nat.mod_lt i hpos
  have hgroup : i / (m * t) < len / (m * t) := Nat.div_lt_of_lt_mul (by rwa [Nat.mul_comm, hwhole])
  refine ⟨i / (m * t), i % (m * t) / m, i % (m * t) % m, Nat.div_lt_of_lt_mul hplace,
    Nat.mod_lt _ (Nat.pos_of_mul_pos_right hpos), ?_, ?_⟩
  · calc (i / (m * t) + 1) * (m * t)
      _ ≤ len / (m * t) * (m * t) := Nat.mul_le_mul_right _ hgroup
      _ = len := hwhole
  · rw [Nat.add_assoc, Nat.div_add_mod', Nat.div_add_mod']

theorem deinterleave_interleave {p : Bits} {m t : Nat} (hp : p.length % (m * t) = 0) :
    deinterleave (interleave p m t) m t = p := by
  have hlen : (interleave p m t).length = p.length := length_interleave hp
  have hlen' : (deinterleave (interleave p m t) m t).length = p.length := (length_deinterleave (hlen ▸ hp)).trans hlen
  refine List.ext_getElem? fun i => ?_
  by_cases hi : i < p.length
  · obtain ⟨q, r, c, hr, hc, hq, rfl⟩ := exists_place_of_lt hp hi
    rw [getElem?_deinterleave (hlen ▸ hp) hr hc (hlen ▸ hq), getElem?_interleave hp hc hr hq]
  · rw [List.getElem?_eq_none (by omega), List.getElem?_eq_none (by omega)]

/-- Settles O41: the group transforms undo each other by `interleaveGroup_interleaveGroup`, for either order of the dimensions;
whole buffers by `deinterleave_interleave`; the example evaluates. -/
theorem deinterleaveInvertsInterleave : Obligations.DeinterleaveInvertsInterleave := by
  refine ⟨fun x m t _ _ hx => ⟨?_, ?_, deinterleaveGroup_eq x m t⟩, fun p m t _ _ => deinterleave_interleave,
    by decide, by decide⟩
  · rw [deinterleaveGroup_eq]
    exact interleaveGroup_interleaveGroup hx
  · rw [deinterleaveGroup_eq]
    exact interleaveGroup_interleaveGroup (Nat.mul_comm m t ▸ hx)

/-! ### Where the channel's flips land (R111) -/

/-- The bit deinterleaved to row `r`, column `c` of a group comes from index `v` exactly when `v` lies in the group and its image
under the position map is that place. -/
theorem mul_add_eq_iff_interleaveSource {m t r c v : Nat} (hr : r < t) (hc : c < m) :
    c * t + r = v ↔ v < m * t ∧ r * m + c = interleaveSource m t v := by
  constructor
  · rintro rfl
    exact ⟨mul_add_lt_mul hc hr, (interleaveSource_mul_add m c hr).symm⟩
  · rintro ⟨hv, hplace⟩
    have hcol : v / t < m := Nat.div_lt_of_lt_mul (Nat.mul_comm m t ▸ hv)
    have hrows : r = v % t := by
      rw [← mul_add_div_of_lt (a := r) hc, hplace, interleaveSource, mul_add_div_of_lt hcol]
    have hcols : c = v / t := by
      rw [← Nat.mul_add_mod_of_lt (a := r) hc, hplace, interleaveSource, Nat.mul_add_mod_of_lt hcol]
    rw [hrows, hcols, Nat.div_add_mod']

/-- The place `u` of a group is one to which the deinterleaver brings a flipped bit: the image of index 1 or 2, where that index
exists (R111). -/
def FlipLandsAt (m t u : Nat) : Prop :=
  (1 < m * t ∧ u = interleaveSource m t 1) ∨ (2 < m * t ∧ u = interleaveSource m t 2)

/-- Through interleaver, channel and deinterleaver, a bit changes exactly where a flip lands. -/
theorem deinterleave_corrupt_interleave_ne_iff {p : Bits} {m t i : Nat} (hp : p.length % (m * t) = 0) (hi : i < p.length) :
    (deinterleave (corrupt (interleave p m t) (m * t)) m t)[i]? ≠ p[i]? ↔ FlipLandsAt m t (i % (m * t)) := by
  obtain ⟨q, r, c, hr, hc, hq, rfl⟩ := exists_place_of_lt hp hi
  have hsource : c * t + r < m * t := mul_add_lt_mul hc hr
  have hplace : r * m + c < m * t := mul_add_lt_group hc hr
  have hilv : (interleave p m t).length = p.length := length_interleave hp
  have hcor : (corrupt (interleave p m t) (m * t)).length = p.length := (length_corrupt (hilv ▸ hp)).trans hilv
  have hinside : q * (m * t) + c * t + r < (interleave p m t).length := by
    rw [Nat.succ_mul] at hq
    omega
  rw [getElem?_deinterleave (hcor ▸ hp) hr hc (hcor ▸ hq), ← getElem?_interleave hp hc hr hq,
    corrupt_ne_iff (Nat.zero_lt_of_lt hsource) (hilv ▸ hp) hinside, Nat.add_assoc, Nat.add_assoc,
    Nat.mul_add_mod_of_lt hsource, Nat.mul_add_mod_of_lt hplace, mul_add_eq_iff_interleaveSource hr hc,
    mul_add_eq_iff_interleaveSource hr hc, FlipLandsAt]

/-- With one sub-word in a group nothing moves. -/
theorem flipLandsAt_t_one (m u : Nat) : FlipLandsAt m 1 u ↔ (u = 1 ∧ 2 ≤ m) ∨ (u = 2 ∧ 3 ≤ m) := by
  rw [FlipLandsAt, interleaveSource_t_one, interleaveSource_t_one]
  omega

/-- With two sub-words the flips hit the second one's first bit and the first one's second bit. -/
theorem flipLandsAt_t_two {m : Nat} (hm : 1 ≤ m) (u : Nat) : FlipLandsAt m 2 u ↔ u = m ∨ (u = 1 ∧ 2 ≤ m) := by
  have hfirst : interleaveSource m 2 1 = m := by simp [interleaveSource]
  have hsecond : interleaveSource m 2 2 = 1 := by simp [interleaveSource]
  rw [FlipLandsAt, hfirst, hsecond]
  omega

/-- With three or more sub-words the flips hit the first bits of the second and of the third. -/
theorem flipLandsAt_three_le {m t : Nat} (hm : 1 ≤ m) (ht : 3 ≤ t) (u : Nat) :
    FlipLandsAt m t u ↔ u = m ∨ u = 2 * m := by
  have hboth : 2 < m * t := lt_of_lt_of_le ht (Nat.le_mul_of_pos_left t hm)
  have hfirst : interleaveSource m t 1 = m := by simpa using interleaveSource_mul_add m 0 (show 1 < t by omega)
  have hsecond : interleaveSource m t 2 = 2 * m := by simpa using interleaveSource_mul_add m 0 (show 2 < t by omega)
  rw [FlipLandsAt, hfirst, hsecond]
  omega

/-- Settles O36: in general by `deinterleave_corrupt_interleave_ne_iff`, then the three rows of R111's table. -/
theorem channelFlipsLand : Obligations.ChannelFlipsLand := by
  intro p m t hm _ hp i hi
  refine ⟨deinterleave_corrupt_interleave_ne_iff hp hi, ?_, ?_, fun ht => flipLandsAt_three_le hm ht _⟩
  · rintro rfl
    exact flipLandsAt_t_one m _
  · rintro rfl
    exact flipLandsAt_t_two hm _

end Datapath

/-! ### The command (R109) -/

theorem exec_deinterleave (s : State) (b : Bool) :
    exec (if b then .deinterleaveB else .deinterleave) s = .next (s.complete (s.deinterleaveStage b)) := by
  cases b <;> rfl

theorem State.deinterleaveStage_invalidParameter {s : State} (h : ¬ s.ParamsOk) (b : Bool) :
    s.deinterleaveStage b = .error .invalidParameter := if_pos h

theorem State.deinterleaveStage_sequence {s : State} {b : Bool} (hp : s.ParamsOk) (hsrc : s.deinterleaveSource b = none) :
    s.deinterleaveStage b = .error .sequence := by
  rw [State.deinterleaveSource] at hsrc
  rw [State.deinterleaveStage, if_neg (not_not.mpr hp), hsrc]

theorem State.deinterleaveStage_dimensionMismatch {s : State} {b : Bool} {x : Bits} (hp : s.ParamsOk)
    (hsrc : s.deinterleaveSource b = some x) (hpartial : x.length % s.groupSize ≠ 0) :
    s.deinterleaveStage b = .error .dimensionMismatch := by
  rw [State.deinterleaveSource] at hsrc
  rw [State.deinterleaveStage, if_neg (not_not.mpr hp), hsrc]
  exact if_pos hpartial

theorem State.deinterleaveStage_ok {s : State} {b : Bool} {x : Bits} (hp : s.ParamsOk)
    (hsrc : s.deinterleaveSource b = some x) (hwhole : x.length % s.groupSize = 0) :
    s.deinterleaveStage b =
      .ok { ({ s with recBuf := some (Datapath.deinterleave x s.m.toNat s.t.toNat) }).invalidateFrom .REC with
            bypass := b } := by
  rw [State.deinterleaveSource] at hsrc
  rw [State.deinterleaveStage, if_neg (not_not.mpr hp), hsrc]
  exact if_neg (not_not.mpr hwhole)

/-- Settles O29: the stage's answer in each case (the lemmas `deinterleaveStage_…`), completed by the engine; the bits of REC
are given by `getElem?_deinterleave`. -/
theorem deinterleaveCommand : Obligations.DeinterleaveCommand := by
  refine ⟨fun w => decodeCommand_of_cmdOp, ?_⟩
  rintro s b _ _ rfl rfl
  refine ⟨fun hp => ?_, fun hp hsrc => ?_, fun x hp hsrc hpartial => ?_, fun x hp hsrc hwhole => ?_⟩
  · rw [exec_deinterleave, State.deinterleaveStage_invalidParameter hp, s.complete_error_eq_afterError]
  · rw [exec_deinterleave, State.deinterleaveStage_sequence hp hsrc, s.complete_error_eq_afterError]
  · rw [exec_deinterleave, State.deinterleaveStage_dimensionMismatch hp hsrc hpartial, s.complete_error_eq_afterError]
  · refine ⟨Datapath.deinterleave x s.m.toNat s.t.toNat, Datapath.length_deinterleave hwhole,
      fun _ _ _ hr hc => Datapath.getElem?_deinterleave hwhole hr hc, ?_⟩
    rw [exec_deinterleave, State.deinterleaveStage_ok hp hsrc hwhole, State.invalidateFrom_REC, State.complete_ok]

end Sys2Proof.Machine
end

section
/-! The decoder: the majority vote of a window and the bits of `decode` (R112), the command DECODE (R113), the round trip without the
channel, and which flips the vote corrects (R114). -/

namespace Sys2Proof.Machine

namespace Datapath

/-! ### The vote of a window (R112) -/

/-- A vote gives 0 exactly when the 1s make up at most half of the window. -/
theorem vote_eq_false_iff (x : Bits) : vote x = false ↔ 2 * x.count true ≤ x.length := by
  rw [vote, decide_eq_false_iff_not, not_lt]

/-- A vote gives 1 exactly when the 0s make up less than half of the window. -/
theorem vote_eq_true_iff (x : Bits) : vote x = true ↔ 2 * x.count false < x.length := by
  have hall := x.count_false_add_count_true
  rw [vote, decide_eq_true_iff]
  omega

theorem vote_eq_majority (x : Bits) : vote x = decide (x.count false < x.count true) := by
  have hall := x.count_false_add_count_true
  rw [vote, decide_eq_decide]
  omega

/-- A bit whose opposite holds less than half of the window wins, whichever it is. -/
theorem vote_of_minority {x : Bits} {b : Bit} (h : 2 * x.count (!b) < x.length) : vote x = b := by
  cases b with
  | false => exact (vote_eq_false_iff x).mpr h.le
  | true => exact (vote_eq_true_iff x).mpr h

theorem vote_replicate {n : Nat} (hn : 1 ≤ n) (b : Bit) : vote (List.replicate n b) = b := by
  refine vote_of_minority ?_
  have hnone : (List.replicate n b).count (!b) = 0 := List.count_eq_zero.mpr fun h =>
    Bool.not_ne_self b (List.eq_of_mem_replicate h)
  rw [hnone, List.length_replicate]
  exact hn

/-- The number of bits of a value is the number of indices that hold it. -/
theorem count_eq_length_filter_range (x : Bits) (b : Bit) :
    x.count b = ((List.range x.length).filter fun k => x[k]? == some b).length := by
  have hindices : (List.range x.length).map (x[·]?) = x.map some := by
    refine List.ext_getElem (by simp) fun k _ hk => ?_
    rw [List.length_map] at hk
    simp [hk]
  rw [← List.count_map_of_injective x some (Option.some_injective _), ← hindices, List.count, List.countP_map,
    List.countP_eq_length_filter]
  rfl

/-! ### The bits of the result (R112) -/

theorem getElem?_decode {r : Bits} {n L w : Nat} (hL : L ≤ ceilDiv r.length n) (hw : w < L) :
    (decode r n L)[w]? = some (vote (slice r (w * n) n)) := by
  rw [decode, List.getElem?_take_of_lt hw, List.getElem?_map, List.getElem?_range (hw.trans_le hL), Option.map_some]

/-- The windows of `L` whole votes are among those that `decode` visits. -/
theorem le_ceilDiv_of_mul_le {a n L : Nat} (hn : 1 ≤ n) (h : L * n ≤ a) : L ≤ ceilDiv a n := by
  rw [ceilDiv, Nat.le_div_iff_mul_le hn]
  omega

/-- The window of `w` cut at the end of the sequence, in the indices of R112. -/
theorem length_slice_window (r : Bits) (n w : Nat) :
    (slice r (w * n) n).length = min ((w + 1) * n) r.length - w * n := by
  rw [length_slice, Nat.succ_mul]
  omega

/-- Settles O42: bit `w` is the vote of window `w` (`getElem?_decode`), whose length and 1s are counted by indices of the
sequence. -/
theorem decoderVotesEveryWindow : Obligations.DecoderVotesEveryWindow := by
  intro r n L _ hL
  refine ⟨by rw [length_decode, Nat.min_eq_left hL], fun w hw => ?_⟩
  have hones : (slice r (w * n) n).count true =
      ((List.range (min ((w + 1) * n) r.length - w * n)).filter fun k => r[w * n + k]? == some true).length := by
    rw [count_eq_length_filter_range, length_slice_window]
    refine congrArg List.length (List.filter_congr fun k hk => ?_)
    have hinside : k < n := by
      rw [List.mem_range, Nat.succ_mul] at hk
      omega
    rw [getElem?_slice r _ hinside]
  rw [getElem?_decode hL hw, vote, hones, length_slice_window]

/-! ### The round trip (R114) -/

/-- What the padder appends lies behind every window of the encoder, and each of those holds copies of one bit. -/
theorem decode_pad_encode (f : Bits) {n : Nat} (hn : 1 ≤ n) (g : Nat) : decode (pad (encode f n) g) n f.length = f := by
  have hbits : f.length * n ≤ (pad (encode f n) g).length := by
    rw [pad, List.length_append, length_encode]
    exact Nat.le_add_right _ _
  have hvotes := le_ceilDiv_of_mul_le hn hbits
  refine List.ext_getElem? fun w => ?_
  by_cases hw : w < f.length
  · have hwindow : w * n + n ≤ (encode f n).length := by
      rw [length_encode, ← Nat.succ_mul]
      exact Nat.mul_le_mul_right n hw
    rw [getElem?_decode hvotes hw, pad, slice_append_left _ hwindow, slice_encode hn (getElem?_eq_bitAt hw),
      vote_replicate hn, getElem?_eq_bitAt hw]
  · rw [List.getElem?_eq_none (by rw [length_decode]; omega), List.getElem?_eq_none (by omega)]

end Datapath

/-! ### The command (R113) -/

theorem exec_decode (s : State) : exec .decode s = .next (s.complete s.decodeStage) := rfl

theorem State.decodeStage_invalidParameter {s : State} (h : ¬ s.ParamsOk) :
    s.decodeStage = .error .invalidParameter := if_pos h

theorem State.decodeStage_sequence {s : State} (hp : s.ParamsOk) (hrec : s.recBuf = none) :
    s.decodeStage = .error .sequence := by
  rw [State.decodeStage, if_neg (not_not.mpr hp), hrec]

theorem State.decodeStage_dimensionMismatch {s : State} {q : Bits} (hp : s.ParamsOk) (hrec : s.recBuf = some q)
    (hshort : q.length < s.frame.length * s.n.toNat) : s.decodeStage = .error .dimensionMismatch := by
  rw [State.decodeStage, if_neg (not_not.mpr hp), hrec]
  exact if_pos hshort

theorem State.decodeStage_ok {s : State} {q : Bits} (hp : s.ParamsOk) (hrec : s.recBuf = some q)
    (hbits : s.frame.length * s.n.toNat ≤ q.length) :
    s.decodeStage =
      .ok (({ s with
        decBuf := some (Datapath.decode q s.n.toNat s.frame.length)
        matched := matchBit (Datapath.decode q s.n.toNat s.frame.length) s.frame }).invalidateFrom .DEC) := by
  rw [State.decodeStage, if_neg (not_not.mpr hp), hrec]
  exact if_neg (not_lt.mpr hbits)

/-- DECODE where no check fails: DEC and MATCH are written, nothing else changes but BUSY. -/
theorem exec_decode_ok {s : State} {q : Bits} (hp : s.ParamsOk) (hrec : s.recBuf = some q)
    (hbits : s.frame.length * s.n.toNat ≤ q.length) :
    exec .decode s = .next { s with
      decBuf := some (Datapath.decode q s.n.toNat s.frame.length)
      matched := decide (Datapath.decode q s.n.toNat s.frame.length = s.frame), busy := false } := by
  rw [exec_decode, State.decodeStage_ok hp hrec hbits, State.invalidateFrom_DEC, State.complete_ok, matchBit]

/-- Settles O30: the stage's answer in each case (the lemmas `decodeStage_…`), completed by the engine; the bits of DEC are the
votes of `getElem?_decode`. The prefix keeps the name apart from the decoder's function `Sys2Proof.decodeCommand`. -/
theorem Decoder.decodeCommand : Obligations.DecodeCommand := by
  refine ⟨fun w => decodeCommand_of_cmdOp,
    fun s => ⟨fun hp => ?_, fun hp hrec => ?_, fun q hp hrec hshort => ?_, fun q hp hrec hbits => ?_⟩⟩
  · rw [exec_decode, State.decodeStage_invalidParameter hp, s.complete_error_eq_afterError]
  · rw [exec_decode, State.decodeStage_sequence hp hrec, s.complete_error_eq_afterError]
  · rw [exec_decode, State.decodeStage_dimensionMismatch hp hrec hshort, s.complete_error_eq_afterError]
  · have hvotes := Datapath.le_ceilDiv_of_mul_le hp.1 hbits
    refine ⟨Datapath.decode q s.n.toNat s.frame.length, ?_, fun w hw => ?_, exec_decode_ok hp hrec hbits⟩
    · rw [Datapath.length_decode, Nat.min_eq_left hvotes]
    · rw [Datapath.getElem?_decode hvotes hw, Datapath.vote_eq_majority, Datapath.slice]

/-! ### RUN without the channel (R114, R115) -/

theorem exec_runB (s : State) : exec .runB s = .next (s.complete (s.runStage true)) := rfl

/-- RUN where no check fails. -/
theorem State.runStage_ok {s : State} (hp : s.ParamsOk) (hred : s.frame.length * s.n.toNat ≤ s.cfg.capBuf)
    (hpad : Datapath.roundUp (s.frame.length * s.n.toNat) s.groupSize ≤ s.cfg.capBuf) (b : Bool) :
    s.runStage b = .ok (s.ranState b) := by
  rw [State.runStage, if_neg (not_not.mpr hp), if_neg (not_lt.mpr hred), if_neg (not_lt.mpr hpad)]
  rfl

/-- Without the channel REC is PAD again. -/
theorem State.ParamsOk.deinterleave_expIlv {s : State} (hp : s.ParamsOk) :
    Datapath.deinterleave s.expIlv s.m.toNat s.t.toNat = s.expPad :=
  Datapath.deinterleave_interleave hp.expPad_mod

/-- Without the channel DECODE gives FRAME back. -/
theorem State.ParamsOk.decode_deinterleave_expIlv {s : State} (hp : s.ParamsOk) :
    Datapath.decode (Datapath.deinterleave s.expIlv s.m.toNat s.t.toNat) s.n.toNat s.frame.length = s.frame := by
  rw [hp.deinterleave_expIlv]
  exact Datapath.decode_pad_encode s.frame hp.1 s.groupSize

/-- Settles O34: RUN.B passes its checks and leaves `ranState true`, whose REC is PAD (`deinterleave_expIlv`) and whose DEC is FRAME
(`decode_deinterleave_expIlv`). -/
theorem roundTripWithoutChannel : Obligations.RoundTripWithoutChannel := by
  intro s hp hred hpad
  have hrec := hp.deinterleave_expIlv
  have hdec := hp.decode_deinterleave_expIlv
  refine ⟨s.complete (.ok (s.ranState true)), ?_, congrArg some hdec, decide_eq_true hdec, rfl, rfl, congrArg some hrec,
    rfl, rfl⟩
  rw [exec_runB, State.runStage_ok hp hred hpad]

/-! ### Which flips the vote corrects (R112, R114) -/

/-- Against a window of copies of one bit, the differences are the opposite bits of the other window. -/
theorem windowDiffs_eq_count {q r : Bits} {n w : Nat} {b : Bit} (hq : (w + 1) * n ≤ q.length)
    (hr : Datapath.slice r (w * n) n = List.replicate n b) :
    windowDiffs q r n w = (Datapath.slice q (w * n) n).count (!b) := by
  rw [windowDiffs, Datapath.count_eq_length_filter_range, Datapath.length_slice_group hq]
  refine congrArg List.length (List.filter_congr fun k hk => ?_)
  have hk : k < n := List.mem_range.mp hk
  have hcopy : r[w * n + k]? = some b := by
    rw [← Datapath.getElem?_slice r _ hk, hr, List.getElem?_replicate_of_lt hk]
  have hexists : w * n + k < q.length := by
    rw [Nat.succ_mul] at hq
    omega
  rw [Datapath.getElem?_slice q _ hk, hcopy, Datapath.getElem?_eq_bitAt hexists]
  cases b <;> cases Datapath.bitAt q (w * n + k) <;> rfl

/-- Settles O35: in a coherent state REC has every window whole and RED's window `w` holds copies of bit `w` of FRAME, so the flips
are the opposite bits of REC's window (`windowDiffs_eq_count`), and the vote is decided by their number. -/
theorem decoderCorrectsExactly : Obligations.DecoderCorrectsExactly := by
  intro s q r hs hrec hred
  have hp : s.ParamsOk := hs.redParams (by simp [hred])
  obtain rfl := hs.recHolds.eq_of_some hrec
  obtain rfl := hs.redHolds.eq_of_some hred
  have hbits := hp.le_length_expRec
  refine ⟨_, s.expDec, exec_decode_ok hp hrec hbits, rfl, fun w hw => ?_⟩
  have hwindow : (w + 1) * s.n.toNat ≤ s.expRec.length := (Nat.mul_le_mul_right _ hw).trans hbits
  have hlen := Datapath.length_slice_group hwindow
  have hflips {b : Bit} (hb : s.frame[w]? = some b) :
      windowDiffs s.expRec s.expRed s.n.toNat w = (Datapath.slice s.expRec (w * s.n.toNat) s.n.toNat).count (!b) :=
    windowDiffs_eq_count hwindow (Datapath.slice_encode hp.1 hb)
  rw [State.expDec, Datapath.getElem?_decode (Datapath.le_ceilDiv_of_mul_le hp.1 hbits) hw]
  refine ⟨fun hb => ?_, fun hb => ?_, fun hmargin => ?_⟩
  · rw [hb, hflips hb, Option.some_inj, Datapath.vote_eq_false_iff, hlen, Bool.not_false]
  · rw [hb, hflips hb, Option.some_inj, Datapath.vote_eq_true_iff, hlen, Bool.not_true]
  · have hb := Datapath.getElem?_eq_bitAt hw
    rw [hflips hb] at hmargin
    rw [hb, Datapath.vote_of_minority (b := Datapath.bitAt s.frame w)]
    omega

end Sys2Proof.Machine
end

section
/-! RUN and RUN.B: their checks and results (R115), and that they do what the stage sequence does, where they succeed and where
they fail (R119). -/

namespace Sys2Proof.Machine

/-! ### The command (R115) -/

theorem exec_run (s : State) (b : Bool) :
    exec (if b then .runB else .run) s = .next (s.complete (s.runStage b)) := by
  cases b <;> rfl

theorem State.runStage_invalidParameter {s : State} (h : ¬ s.ParamsOk) (b : Bool) :
    s.runStage b = .error .invalidParameter := if_pos h

/-- Either of the two capacity checks that fails raises CAPACITY. -/
theorem State.runStage_capacity {s : State} (hp : s.ParamsOk)
    (hover : s.cfg.capBuf < s.frame.length * s.n.toNat ∨
      s.cfg.capBuf < Datapath.roundUp (s.frame.length * s.n.toNat) s.groupSize) (b : Bool) :
    s.runStage b = .error .capacity := by
  rcases s.runStage_cases b with ⟨hnot, -⟩ | ⟨-, -, e⟩ | ⟨-, -, -, e⟩ | ⟨-, hred, hpad, -⟩
  · exact absurd hp hnot
  · exact e
  · exact e
  · omega

/-- Settles O31: the stage's answer in each case (the lemmas `runStage_…`), completed by the engine; without the channel DEC is
FRAME (`decode_deinterleave_expIlv`). -/
theorem runCommand : Obligations.RunCommand := by
  refine ⟨fun w => decodeCommand_of_cmdOp, ?_⟩
  rintro s b _ rfl
  refine ⟨fun hp => ?_, fun hp hover => ?_, fun hp hover => ?_, fun hp hred hpad => ?_⟩
  · rw [exec_run, State.runStage_invalidParameter hp, s.complete_error_eq_afterError]
  · rw [exec_run, State.runStage_capacity hp (.inl hover), s.complete_error_eq_afterError]
  · rw [exec_run, State.runStage_capacity hp (.inr hover), s.complete_error_eq_afterError]
  · rintro _ _ _ _ _ _ rfl rfl rfl rfl rfl rfl
    refine ⟨?_, ?_⟩
    · rw [exec_run, State.runStage_ok hp hred hpad, State.complete_ok]
      rfl
    · rintro rfl
      exact decide_eq_true hp.decode_deinterleave_expIlv

/-! ### The stage sequence where no check fails (R119) -/

/-- The state on the way through the sequence: RED made from FRAME, the buffers after it as given, DEC not yet made. -/
def State.underway (s : State) (pad ilv cor rec : Option Bits) (bypass : Bit) : State :=
  { s with
    redBuf := some s.expRed, padBuf := pad, ilvBuf := ilv, corBuf := cor, recBuf := rec, decBuf := none
    matched := false, bypass := bypass, busy := false }

/-- After ENCODE. -/
def State.encoded (s : State) : State := s.underway none none none none false

/-- After PADSPLIT on that. -/
def State.padded (s : State) : State := s.underway (some s.expPad) none none none false

/-- After INTERLEAVE on that. -/
def State.interleaved (s : State) : State := s.underway (some s.expPad) (some s.expIlv) none none false

/-- What DEINTERLEAVE starts from: after CORRUPT, or without it where the channel is skipped. -/
def State.transmitted (s : State) (b : Bool) : State :=
  s.underway (some s.expPad) (some s.expIlv) (if b then none else some s.expCor) none false

/-- After DEINTERLEAVE on that. -/
def State.received (s : State) (b : Bool) : State :=
  s.underway (some s.expPad) (some s.expIlv) (if b then none else some s.expCor)
    (some (Datapath.deinterleave (if b then s.expIlv else s.expCor) s.m.toNat s.t.toNat)) b

theorem exec_encode_ok {s : State} (hp : s.ParamsOk) (hred : s.frame.length * s.n.toNat ≤ s.cfg.capBuf) :
    exec .encode s = .next s.encoded := by
  rw [exec_encode, State.encodeStage_ok hp hred, State.complete_ok]
  rfl

theorem exec_padsplit_encoded {s : State} (hp : s.ParamsOk)
    (hpad : Datapath.roundUp (s.frame.length * s.n.toNat) s.groupSize ≤ s.cfg.capBuf) :
    exec .padsplit s.encoded = .next s.padded := by
  rw [← s.length_expRed] at hpad
  rw [exec_padsplit, State.padsplitStage_ok (s := s.encoded) hp rfl hpad, State.complete_ok]
  rfl

theorem exec_interleave_padded {s : State} (hp : s.ParamsOk) : exec .interleave s.padded = .next s.interleaved := by
  rw [exec_interleave, State.interleaveStage_ok (s := s.padded) hp rfl hp.expPad_mod, State.complete_ok]
  rfl

theorem exec_corrupt_interleaved {s : State} (hp : s.ParamsOk) :
    exec .corrupt s.interleaved = .next (s.transmitted false) := by
  rw [exec_corrupt, State.corruptStage_ok (s := s.interleaved) hp rfl hp.expIlv_mod, State.complete_ok]
  rfl

theorem exec_deinterleave_transmitted {s : State} (hp : s.ParamsOk) (b : Bool) :
    exec (if b then .deinterleaveB else .deinterleave) (s.transmitted b) = .next (s.received b) := by
  have hsrc : (s.transmitted b).deinterleaveSource b = some (if b then s.expIlv else s.expCor) := by
    cases b <;> rfl
  have hwhole : (if b then s.expIlv else s.expCor).length % s.groupSize = 0 := by
    rw [hp.length_expSource, hp.expPad_mod]
  rw [exec_deinterleave, State.deinterleaveStage_ok (s := s.transmitted b) hp hsrc hwhole, State.complete_ok]
  rfl

/-- DECODE ends the sequence in the state that RUN leaves. -/
theorem exec_decode_received {s : State} (hp : s.ParamsOk) (b : Bool) :
    exec .decode (s.received b) = .next (s.complete (.ok (s.ranState b))) := by
  have hbits := State.ParamsOk.le_length_expRec (s := { s with bypass := b }) hp
  rw [exec_decode_ok (s := s.received b) hp rfl hbits]
  rfl

theorem execAll_cons {i : Instr} {is : List Instr} {s t : State} (h : exec i s = .next t) :
    execAll (i :: is) s = execAll is t := by
  rw [execAll, h]

/-- The part of the sequence before the channel. -/
theorem execAll_interleaved {s : State} (hp : s.ParamsOk) (hred : s.frame.length * s.n.toNat ≤ s.cfg.capBuf)
    (hpad : Datapath.roundUp (s.frame.length * s.n.toNat) s.groupSize ≤ s.cfg.capBuf) (is : List Instr) :
    execAll (.encode :: .padsplit :: .interleave :: is) s = execAll is s.interleaved := by
  rw [execAll_cons (exec_encode_ok hp hred), execAll_cons (exec_padsplit_encoded hp hpad),
    execAll_cons (exec_interleave_padded hp)]

/-- The part of the sequence after the channel. -/
theorem execAll_transmitted {s : State} (hp : s.ParamsOk) (b : Bool) :
    execAll [if b then .deinterleaveB else .deinterleave, .decode] (s.transmitted b) =
      .next (s.complete (.ok (s.ranState b))) := by
  rw [execAll_cons (exec_deinterleave_transmitted hp b), execAll_cons (exec_decode_received hp b), execAll]

/-! ### What RUN leaves (R115, R119) -/

/-- What RUN can leave: an error for the first check that fails, or every result at once (R115, R118). -/
theorem exec_run_cases {s t : State} {b : Bool} (h : exec (if b then .runB else .run) s = .next t) :
    (¬ s.ParamsOk ∧ t = s.afterError .invalidParameter) ∨
    (s.ParamsOk ∧ s.cfg.capBuf < s.frame.length * s.n.toNat ∧ t = s.afterError .capacity) ∨
    (s.ParamsOk ∧ s.frame.length * s.n.toNat ≤ s.cfg.capBuf ∧
      s.cfg.capBuf < Datapath.roundUp (s.frame.length * s.n.toNat) s.groupSize ∧ t = s.afterError .capacity) ∨
    (s.ParamsOk ∧ s.frame.length * s.n.toNat ≤ s.cfg.capBuf ∧
      Datapath.roundUp (s.frame.length * s.n.toNat) s.groupSize ≤ s.cfg.capBuf ∧
      t = s.complete (.ok (s.ranState b))) := by
  rw [exec_run] at h
  injection h with h
  subst h
  rcases s.runStage_cases b with ⟨hp, e⟩ | ⟨hp, hover, e⟩ | ⟨hp, hred, hover, e⟩ | ⟨hp, hred, hpad, e⟩ <;> rw [e]
  · exact .inl ⟨hp, rfl⟩
  · exact .inr (.inl ⟨hp, hover, rfl⟩)
  · exact .inr (.inr (.inl ⟨hp, hred, hover, rfl⟩))
  · exact .inr (.inr (.inr ⟨hp, hred, hpad, rfl⟩))

theorem State.afterError_err {s : State} (hnoErr : s.err = .noError) (c : ErrorCode) : (s.afterError c).err = c :=
  if_pos hnoErr

/-- RUN that leaves no error has passed its checks and written every result. -/
theorem exec_run_succeeds {s t : State} {b : Bool} (hnoErr : s.err = .noError)
    (h : exec (if b then .runB else .run) s = .next t) (ht : t.err = .noError) :
    s.ParamsOk ∧ s.frame.length * s.n.toNat ≤ s.cfg.capBuf ∧
      Datapath.roundUp (s.frame.length * s.n.toNat) s.groupSize ≤ s.cfg.capBuf ∧
      t = s.complete (.ok (s.ranState b)) := by
  rcases exec_run_cases h with ⟨-, rfl⟩ | ⟨-, -, rfl⟩ | ⟨-, -, -, rfl⟩ | hran
  · simp [State.afterError_err hnoErr] at ht
  · simp [State.afterError_err hnoErr] at ht
  · simp [State.afterError_err hnoErr] at ht
  · exact hran

/-- Settles O32: both sequences pass through `interleaved` and, with CORRUPT or without it, go on from `transmitted`. -/
theorem runEqualsStageSequence : Obligations.RunEqualsStageSequence := by
  intro s t hnoErr
  refine ⟨fun h ht => ?_, fun h ht => ?_⟩
  · obtain ⟨hp, hred, hpad, rfl⟩ := exec_run_succeeds (b := false) hnoErr h ht
    rw [execAll_interleaved hp hred hpad, execAll_cons (exec_corrupt_interleaved hp)]
    exact execAll_transmitted hp false
  · obtain ⟨hp, hred, hpad, rfl⟩ := exec_run_succeeds (b := true) hnoErr h ht
    rw [execAll_interleaved hp hred hpad]
    exact execAll_transmitted hp true

/-- Settles O33: ENCODE checks the parameters and the length of RED as RUN does; where it succeeds, PADSPLIT checks RED's length
rounded up (R96), as RUN does last. -/
theorem runFailsAsFirstFailingStage : Obligations.RunFailsAsFirstFailingStage := by
  intro s t i hi hnoErr h ht
  obtain ⟨b, rfl⟩ : ∃ b : Bool, i = if b then .runB else .run := by
    rcases hi with rfl | rfl
    · exact ⟨false, rfl⟩
    · exact ⟨true, rfl⟩
  have hencode := exec_encode s
  rcases exec_run_cases h with ⟨hp, rfl⟩ | ⟨hp, hover, rfl⟩ | ⟨hp, hred, hover, rfl⟩ | ⟨-, -, -, rfl⟩
  · rw [State.encodeStage_invalidParameter hp] at hencode
    exact ⟨rfl, .inl ⟨_, hencode, rfl⟩⟩
  · rw [State.encodeStage_capacity hp hover] at hencode
    exact ⟨rfl, .inl ⟨_, hencode, rfl⟩⟩
  · rw [← s.length_expRed] at hover
    have hpadsplit := exec_padsplit s.encoded
    rw [State.padsplitStage_capacity (s := s.encoded) hp rfl hover] at hpadsplit
    exact ⟨rfl, .inr ⟨_, _, exec_encode_ok hp hred, hnoErr, hpadsplit, rfl⟩⟩
  · exact absurd hnoErr ht

end Sys2Proof.Machine
end

section
/-! The commands performed at the CMD write (R62, R116, R117), what BUSY shuts out (R125), and that no instruction records
DIMENSION_MISMATCH in a coherent state (R126). -/

namespace Sys2Proof.Machine

/-! ### Guarded instructions (R62, R70, R116, R117, R125) -/

/-- Settles O23: every one is guarded by BUSY: a violation, or performed on an idle block (`answer_guardBusy_idle`). -/
theorem immediateCommands : Obligations.ImmediateCommands := by
  refine ⟨fun w => ⟨decodeCommand_of_cmdOp, decodeCommand_of_cmdOp⟩, fun s op => ⟨fun hbusy => ?_, fun hidle => ?_⟩⟩
  · have violates := answer_guardBusy_busy hbusy
    exact ⟨violates _, violates _, violates _, violates _, violates _⟩
  · have performs := answer_guardBusy_idle hidle
    exact ⟨performs _, performs _, performs _, performs _, performs _⟩

/-- Settles O11: each of the ten is a guarded write (`answer_guardBusy_busy`). -/
theorem busyViolation : Obligations.BusyViolation := by
  intro s v op hbusy i hi
  have violates := answer_guardBusy_busy hbusy
  fin_cases hi <;> exact violates _

/-! ### DIMENSION_MISMATCH (R126) -/

/-- The commands that the engine does not execute. -/
def immediateInstrs (op : BitVec 4) : List Instr := [.nop, .clear, .reservedOp9, .reservedOpAB op, .reservedOpCF op]

/-- Every instruction is a command of the engine, a command performed at the CMD write, a read, or a write with or without
effect. -/
theorem instr_kinds (i : Instr) :
    i ∈ [.encode, .padsplit, .interleave, .corrupt, .deinterleave, .deinterleaveB, .decode, .run, .runB] ∨
    (∃ op, i ∈ immediateInstrs op) ∨ (∃ o, i ∈ readInstrs o) ∨ (∃ v, i ∈ effectiveWrites v) ∨
    (∃ o v, i ∈ ignoredWrites o v) := by
  cases i with
  | encode | padsplit | interleave | corrupt | deinterleave | deinterleaveB | decode | run | runB => exact .inl (by simp)
  | nop | clear | reservedOp9 => exact .inr (.inl ⟨0, by simp [immediateInstrs]⟩)
  | reservedOpAB op | reservedOpCF op => exact .inr (.inl ⟨op, by simp [immediateInstrs]⟩)
  | wrCmd v | wrN v | wrM v | wrT v | wrFrameIn v | wrRdSel v | wrRdIdx v =>
    exact .inr (.inr (.inr (.inl ⟨v, by simp [effectiveWrites]⟩)))
  | wrStatus v | wrRdData v | wrRdLen v | wrCapFrame v | wrCapBuf v =>
    exact .inr (.inr (.inr (.inr ⟨0, v, by simp [ignoredWrites]⟩)))
  | wrReserved30 o v | wrReserved40 o v | wrReserved80 o v =>
    exact .inr (.inr (.inr (.inr ⟨o, v, by simp [ignoredWrites]⟩)))
  | rdReserved30 o | rdReserved40 o | rdReserved80 o => exact .inr (.inr (.inl ⟨o, by simp [readInstrs]⟩))
  | rdStatus | rdN | rdM | rdT | rdRdSel | rdRdIdx | rdRdData | rdRdLen | rdCapFrame | rdCapBuf | rdCmd | rdFrameIn =>
    exact .inr (.inr (.inl ⟨0, by simp [readInstrs]⟩))

/-- DIMENSION_MISMATCH has not been recorded. -/
abbrev State.NoMismatch (s : State) : Prop := s.err ≠ .dimensionMismatch

theorem State.NoMismatch.recordError {s : State} (h : s.NoMismatch) {c : ErrorCode} (hc : c ≠ .dimensionMismatch) :
    (s.recordError c).NoMismatch := by
  rw [State.NoMismatch, State.recordError_err]
  split
  · exact hc
  · exact h

theorem State.NoMismatch.guardBusy {s : State} (h : s.NoMismatch) {f : State → State} (hf : (f s).NoMismatch) :
    (s.guardBusy f).NoMismatch := by
  rcases s.guardBusy_cases f with ⟨-, e⟩ | ⟨-, e⟩ <;> rw [e]
  · exact h.recordError (c := .busyViolation) nofun
  · exact hf

theorem State.NoMismatch.commandWrite {s : State} (h : s.NoMismatch) (op : BitVec 4) (b : Bool) :
    (s.commandWrite op b).NoMismatch := by
  rcases s.commandWrite_cases op b with ⟨-, e⟩ | ⟨-, e⟩ | ⟨-, e⟩ | ⟨-, -, e⟩ | ⟨-, -, e⟩ <;> rw [e]
  · exact h.recordError nofun
  · exact h
  · exact nofun
  · exact h
  · exact h

theorem State.NoMismatch.appendChar {s : State} (h : s.NoMismatch) (c : BitVec 8) : (s.appendChar c).NoMismatch := by
  rcases s.appendChar_cases c with ⟨-, e⟩ | ⟨-, -, e⟩ | ⟨-, -, -, e⟩ | ⟨-, -, b, -, e⟩ <;> rw [e]
  · exact h
  · exact nofun
  · exact nofun
  · exact h

theorem exec_immediate_noMismatch {s t : State} {op : BitVec 4} {i : Instr} (hi : i ∈ immediateInstrs op)
    (h : s.NoMismatch) (he : exec i s = .next t) : t.NoMismatch := by
  simp only [immediateInstrs, List.mem_cons, List.not_mem_nil, or_false] at hi
  rcases hi with rfl | rfl | rfl | rfl | rfl <;> injection he with he <;> subst he
  · exact h.guardBusy h
  · exact h.guardBusy nofun
  · exact h.guardBusy (h.recordError nofun)
  · exact h.guardBusy (h.recordError nofun)
  · exact h.guardBusy (h.recordError nofun)

theorem exec_effectiveWrite_noMismatch {s t : State} {v : Word} {i : Instr} (hi : i ∈ effectiveWrites v)
    (h : s.NoMismatch) (he : exec i s = .next t) : t.NoMismatch := by
  simp only [effectiveWrites, List.mem_cons, List.not_mem_nil, or_false] at hi
  rcases hi with rfl | rfl | rfl | rfl | rfl | rfl | rfl <;> injection he with he <;> subst he
  · exact h.guardBusy (h.commandWrite _ _)
  · exact h.guardBusy h
  · exact h.guardBusy h
  · exact h.guardBusy h
  · exact h.guardBusy (h.appendChar _)
  · exact h
  · exact h

/-- Settles O48: the engine's commands find no mismatch in a coherent state (`State.Coherent.stageAnswers`), and no other
instruction raises it. -/
theorem dimensionMismatchUnreachable : Obligations.DimensionMismatchUnreachable := by
  intro s t i h he
  have hno : s.NoMismatch := h.noMismatch
  rcases instr_kinds i with hi | ⟨op, hi⟩ | ⟨o, hi⟩ | ⟨v, hi⟩ | ⟨o, v, hi⟩
  · obtain ⟨r, hr, e⟩ := exec_engine s hi
    rw [e] at he
    injection he with he
    subst he
    exact (h.complete (h.stageAnswers r hr)).noMismatch
  · exact exec_immediate_noMismatch hi hno he
  · obtain ⟨_, _, rfl⟩ := exec_readInstrs hi he
    exact hno
  · exact exec_effectiveWrite_noMismatch hi hno he
  · obtain rfl := exec_ignoredWrites hi he
    exact hno

end Sys2Proof.Machine
end

section
/-! Runs of the machine: reset and waiting (R134 to R136), that a started command completes (R141), and the orders of a host access
and a pending command's completion (R47, R48, R133). -/

namespace Sys2Proof.Machine

/-! ### Reset and waiting (R134 to R136, R143) -/

/-- Settles O8: `takeReset` keeps what the statement keeps and takes the rest from the reset state. -/
theorem resetInputResetsBlock : Obligations.ResetInputResetsBlock := fun _ _ hi hturn => step_reset hi hturn

/-- Settles O9: an ended run has no input and an idle engine (`step_idle`). -/
theorem idleBlockWaits : Obligations.IdleBlockWaits := by
  rintro s ⟨hi, hidle⟩
  exact step_idle hi hidle

/-! ### Runs -/

theorem run_succ {C : Host.Core} {s t : C.State} (h : C.step s = .next t) (k : Nat) : C.run (k + 1) s = C.run k t := by
  rw [Host.Core.run, h]

theorem run_add {C : Host.Core} {s t : C.State} {j : Nat} (h : C.run j s = .next t) (k : Nat) :
    C.run (j + k) s = C.run k t := by
  induction j generalizing s with
  | zero =>
    injection h with h
    rw [Nat.zero_add, h]
  | succ j ih =>
    rw [Host.Core.run] at h
    split at h
    next u hu => rw [Nat.succ_add, run_succ hu, ih h]
    next => cases h
    next => cases h

/-- A legal access is fetched (R42, R44, R67). -/
theorem fetchAccess_legal {a : Access} (h : a.Legal) : ∃ i, fetchAccess a = .ok i := by
  obtain ⟨hw, ho, h4⟩ := h
  have hlow : (BitVec.ofNat 8 a.off).extractLsb' 0 2 = 0#2 := by
    refine low_bits_of_toNat_mod_four ?_
    rwa [BitVec.toNat_ofNat, Nat.mod_eq_of_lt ho]
  cases hd : a.dir with
  | read => exact ⟨_, fetchAccess_ok hw ho (by rw [hd, decode_accessKey, decodeAccess_read hlow])⟩
  | write => exact ⟨_, fetchAccess_ok hw ho (by rw [hd, decode_accessKey, decodeAccess_write hlow])⟩

/-- In the host's turn a legal access has a step. -/
theorem step_legalAccess {s : State} {a : Access} {rest : List Input} (ha : a.Legal) (hi : s.inputs = .access a :: rest)
    (hturn : ¬ (s.busy = true ∧ s.wait = 0)) : ∃ t, step s = .next t := by
  obtain ⟨i, hf⟩ := fetchAccess_legal ha
  rw [step_access hi hturn hf]
  exact exec_answers_next i _

/-- On the engine's turn the latched command completes and BUSY falls (R118). -/
theorem step_engine_completes {s : State} (hbusy : s.busy = true) (hop : isEngineOp s.pendOp = true)
    (hw : s.inputs = [] ∨ s.wait = 0) :
    ∃ t, step s = .next t ∧ exec (commandOf s.pendOp s.pendB) s = .next t ∧ t.busy = false := by
  obtain ⟨t, he⟩ := exec_answers_next (commandOf s.pendOp s.pendB) s
  obtain ⟨r, -, rfl⟩ := exec_commandOf hop he
  exact ⟨_, (step_engine hbusy hw hop).trans he, he, s.complete_busy r⟩

/-! ### A started command completes (R141) -/

/-- Settles O58, by induction on the latency left: it is the engine's turn, or the host's access keeps the pending command and
takes one from the latency (`busyProtectsTheCommand`). -/
theorem startedCommandCompletes : Obligations.StartedCommandCompletes := by
  intro s hbusy hop hlegal hreset
  induction hwait : s.wait generalizing s with
  | zero =>
    obtain ⟨t, hstep, he, hidle⟩ := step_engine_completes hbusy hop (.inr hwait)
    exact ⟨0, s, t, le_rfl, rfl, hbusy, State.turn_engine hbusy (.inr hwait), hstep, he, hidle⟩
  | succ w ih =>
    have hpos : s.wait ≠ 0 := by omega
    match hi : s.inputs with
    | [] =>
      obtain ⟨t, hstep, he, hidle⟩ := step_engine_completes hbusy hop (.inl hi)
      exact ⟨0, s, t, Nat.zero_le _, rfl, hbusy, State.turn_engine hbusy (.inl hi), hstep, he, hidle⟩
    | .reset :: rest => simp [hi] at hreset
    | .access a :: rest =>
      have ha : a.Legal := hlegal (.access a) (by simp [hi])
      obtain ⟨s', hstep⟩ := step_legalAccess ha hi (fun hturn => hpos hturn.2)
      obtain ⟨-, -, -, -, -, -, -, -, -, -, -, -, hbusy', hpendOp, hpendB, -, hinputs, hwait', -⟩ :=
        busyProtectsTheCommand s s' a rest hbusy hpos hi hstep
      have hlegal' : s'.InputsLegal := fun i hmem => hlegal i (by simp [hi, hinputs ▸ hmem])
      have hreset' : Input.reset ∉ s'.inputs := fun hmem => hreset (by simp [hi, hinputs ▸ hmem])
      obtain ⟨k, u, t, hk, hrun, hu⟩ := ih s' hbusy' (by rwa [hpendOp]) hlegal' hreset' (by omega)
      rw [hpendOp, hpendB] at hu
      exact ⟨k + 1, u, t, Nat.succ_le_succ hk, (run_succ hstep k).trans hrun, hu⟩

/-! ### Both orders (R133) -/

theorem fetchAccess_wrN (v : Word) :
    fetchAccess { dir := .write, off := regOff .N, width := 32, data := v } = .ok (.wrN v) :=
  fetchAccess_ok rfl (show 0x08 < 256 by decide) (decodeInvertsEncode (.wrN v) rfl)

/-- After a violation an error stands. -/
theorem State.afterViolation_err_ne (s : State) : s.afterViolation.err ≠ .noError := by
  rw [State.afterViolation]
  split
  · exact nofun
  · assumption

/-- The completion of a command takes no input. -/
theorem exec_commandOf_inputs {s t : State} {op : BitVec 4} {b : Bool} (hop : isEngineOp op = true)
    (he : exec (commandOf op b) s = .next t) : t.inputs = s.inputs := by
  rcases engine_step hop he with ⟨c, rfl⟩ | ⟨_, _, _, _, _, _, _, _, rfl⟩ <;> rfl

theorem engineFirst_acceptsWrite {s : State} (v : Word) (hbusy : s.busy = true) (hop : isEngineOp s.pendOp = true)
    (hwait : s.wait = 0) (hi : s.inputs = [wr .N v]) :
    ∃ t, Host.Core.run Sys2Proof.core 2 s = .next t ∧ t.busy = false ∧ t.n = v ∧ t.redBuf = none := by
  obtain ⟨u, hstep, he, hidle⟩ := step_engine_completes hbusy hop (.inr hwait)
  have hinputs : u.inputs = [wr .N v] := (exec_commandOf_inputs hop he).trans hi
  have hwrite := step_access hinputs (by simp [hidle]) (fetchAccess_wrN v)
  rw [exec_wrN_idle (s := u.accept []) hidle, State.invalidateFrom_FRAME] at hwrite
  have hrun := (run_succ (C := Sys2Proof.core) hstep 1).trans (run_succ hwrite 0)
  exact ⟨_, hrun, hidle, rfl, rfl⟩

theorem writeFirst_violates {s : State} (v : Word) (hbusy : s.busy = true) (hop : isEngineOp s.pendOp = true)
    (hwait : s.wait ≠ 0) (hi : s.inputs = [wr .N v]) :
    ∃ t, Host.Core.run Sys2Proof.core 2 s = .next t ∧ t.busy = false ∧ t.n = s.n ∧ t.err ≠ .noError := by
  have hwrite := step_access hi (fun hturn => hwait hturn.2) (fetchAccess_wrN v)
  rw [exec, execWrN, answer_guardBusy_busy (by exact hbusy)] at hwrite
  have herr := (s.accept []).afterViolation_err_ne
  obtain ⟨t, hstep, he, hidle⟩ := step_engine_completes (s := (s.accept []).afterViolation) hbusy hop (.inl rfl)
  obtain ⟨r, hr, rfl⟩ := exec_commandOf (by exact hop) he
  obtain ⟨hn, -, -, -, -, -, -, hkeeps⟩ := complete_keeps hr
  exact ⟨_, (run_succ hwrite 1).trans (run_succ hstep 0), hidle, hn, by rwa [hkeeps herr]⟩

/-- Settles O59: the one order by `engineFirst_acceptsWrite`, the other by `writeFirst_violates`. -/
theorem bothOrdersAdmitted : Obligations.BothOrdersAdmitted := fun s v hbusy hop =>
  ⟨engineFirst_acceptsWrite v (s := { s with wait := 0, inputs := [wr .N v] }) hbusy hop rfl rfl,
    writeFirst_violates v (s := { s with wait := 1, inputs := [wr .N v] }) hbusy hop nofun rfl⟩

/-! ### A polling host (R48, R133) -/

/-- The state with other things outside the block: inputs to come, the value last read, and the latency left. -/
def State.withOutside (s : State) (ins : List Input) (v : Option Word) (w : Nat) : State :=
  { s with inputs := ins, readData := v, wait := w }

/-! What a stage answers does not depend on what stands outside the block; one lemma for each stage. -/

section
variable (s : State) (ins : List Input) (v : Option Word) (w : Nat)

theorem State.encodeStage_withOutside :
    (s.withOutside ins v w).encodeStage = s.encodeStage.map (·.withOutside ins v w) := by
  rcases s.encodeStage_cases with ⟨hp, e⟩ | ⟨hp, hover, e⟩ | ⟨hp, hfits, e⟩ <;> rw [e]
  · exact State.encodeStage_invalidParameter hp
  · exact State.encodeStage_capacity hp hover
  · exact State.encodeStage_ok hp hfits

theorem State.padsplitStage_withOutside :
    (s.withOutside ins v w).padsplitStage = s.padsplitStage.map (·.withOutside ins v w) := by
  rcases s.padsplitStage_cases with ⟨hp, e⟩ | ⟨hp, hr, e⟩ | ⟨hp, r, hr, hover, e⟩ | ⟨hp, r, hr, hfits, e⟩ <;> rw [e]
  · exact State.padsplitStage_invalidParameter hp
  · exact State.padsplitStage_sequence hp hr
  · exact State.padsplitStage_capacity hp hr hover
  · exact State.padsplitStage_ok hp hr hfits

theorem State.interleaveStage_withOutside :
    (s.withOutside ins v w).interleaveStage = s.interleaveStage.map (·.withOutside ins v w) := by
  rcases s.interleaveStage_cases with ⟨hp, e⟩ | ⟨hp, hpad, e⟩ | ⟨hp, p, hpad, hmod, e⟩ | ⟨hp, p, hpad, hmod, e⟩ <;>
    rw [e]
  · exact State.interleaveStage_invalidParameter hp
  · exact State.interleaveStage_sequence hp hpad
  · exact State.interleaveStage_dimensionMismatch hp hpad hmod
  · exact State.interleaveStage_ok hp hpad hmod

theorem State.corruptStage_withOutside :
    (s.withOutside ins v w).corruptStage = s.corruptStage.map (·.withOutside ins v w) := by
  rcases s.corruptStage_cases with ⟨hp, e⟩ | ⟨hp, hilv, e⟩ | ⟨hp, x, hilv, hmod, e⟩ | ⟨hp, x, hilv, hmod, e⟩ <;> rw [e]
  · exact State.corruptStage_invalidParameter hp
  · exact State.corruptStage_sequence hp hilv
  · exact State.corruptStage_dimensionMismatch hp hilv hmod
  · exact State.corruptStage_ok hp hilv hmod

theorem State.deinterleaveStage_withOutside (b : Bool) :
    (s.withOutside ins v w).deinterleaveStage b = (s.deinterleaveStage b).map (·.withOutside ins v w) := by
  rcases s.deinterleaveStage_cases b with ⟨hp, e⟩ | ⟨hp, hsrc, e⟩ | ⟨hp, x, hsrc, hmod, e⟩ | ⟨hp, x, hsrc, hmod, e⟩ <;>
    rw [e]
  · exact State.deinterleaveStage_invalidParameter (s := s.withOutside ins v w) hp b
  · exact State.deinterleaveStage_sequence hp hsrc
  · exact State.deinterleaveStage_dimensionMismatch hp hsrc hmod
  · exact State.deinterleaveStage_ok hp hsrc hmod

theorem State.decodeStage_withOutside :
    (s.withOutside ins v w).decodeStage = s.decodeStage.map (·.withOutside ins v w) := by
  rcases s.decodeStage_cases with ⟨hp, e⟩ | ⟨hp, hrec, e⟩ | ⟨hp, q, hrec, hshort, e⟩ | ⟨hp, q, hrec, hbits, e⟩ <;> rw [e]
  · exact State.decodeStage_invalidParameter hp
  · exact State.decodeStage_sequence hp hrec
  · exact State.decodeStage_dimensionMismatch hp hrec hshort
  · exact State.decodeStage_ok hp hrec hbits

theorem State.runStage_withOutside (b : Bool) :
    (s.withOutside ins v w).runStage b = (s.runStage b).map (·.withOutside ins v w) := by
  rcases s.runStage_cases b with ⟨hp, e⟩ | ⟨hp, hover, e⟩ | ⟨hp, -, hover, e⟩ | ⟨hp, hred, hpad, e⟩ <;> rw [e]
  · exact State.runStage_invalidParameter (s := s.withOutside ins v w) hp b
  · exact State.runStage_capacity (s := s.withOutside ins v w) hp (.inl hover) b
  · exact State.runStage_capacity (s := s.withOutside ins v w) hp (.inr hover) b
  · exact State.runStage_ok (s := s.withOutside ins v w) hp hred hpad b

end

/-- What the engine does to the block does not depend on what stands outside it, nor does it change that. -/
theorem exec_engine_withOutside {s t : State} (ins : List Input) (v : Option Word) (w : Nat) {i : Instr}
    (hi : i ∈ [.encode, .padsplit, .interleave, .corrupt, .deinterleave, .deinterleaveB, .decode, .run, .runB])
    (he : exec i s = .next t) : exec i (s.withOutside ins v w) = .next (t.withOutside ins v w) := by
  have completes (stage : State → Except ErrorCode State)
      (hstage : stage (s.withOutside ins v w) = (stage s).map (·.withOutside ins v w))
      (he : (.next (s.complete (stage s)) : Result) = .next t) :
      (.next ((s.withOutside ins v w).complete (stage (s.withOutside ins v w))) : Result) =
        .next (t.withOutside ins v w) := by
    injection he with he
    rw [hstage, ← he]
    cases stage s <;> rfl
  fin_cases hi
  · exact completes _ (s.encodeStage_withOutside ins v w) he
  · exact completes _ (s.padsplitStage_withOutside ins v w) he
  · exact completes _ (s.interleaveStage_withOutside ins v w) he
  · exact completes _ (s.corruptStage_withOutside ins v w) he
  · exact completes (·.deinterleaveStage false) (s.deinterleaveStage_withOutside ins v w false) he
  · exact completes (·.deinterleaveStage true) (s.deinterleaveStage_withOutside ins v w true) he
  · exact completes _ (s.decodeStage_withOutside ins v w) he
  · exact completes (·.runStage false) (s.runStage_withOutside ins v w false) he
  · exact completes (·.runStage true) (s.runStage_withOutside ins v w true) he

theorem fetchAccess_rdStatus :
    fetchAccess { dir := .read, off := regOff .STATUS, width := 32, data := 0 } = .ok .rdStatus :=
  fetchAccess_ok rfl (by decide) (decodeInvertsEncode .rdStatus rfl)

/-- One poll returns STATUS and takes one from the latency. -/
theorem step_poll {s : State} {w : Nat} (hturn : s.busy = true → w ≠ 0) (v : Option Word) (j : Nat) :
    step (s.withOutside (waitPolls (j + 1)) v w) = .next (s.withOutside (waitPolls j) (some s.statusWord) (w - 1)) :=
  step_access (s := s.withOutside (waitPolls (j + 1)) v w) rfl (fun h => hturn h.1 h.2) fetchAccess_rdStatus

/-- Polls in a row, which a pending command's latency leaves room for. -/
theorem run_polls {s : State} {j w : Nat} (hroom : s.busy = true → j ≤ w) (v : Option Word) (i : Nat) :
    Host.Core.run Sys2Proof.core j (s.withOutside (waitPolls (i + j)) v w) =
      .next (s.withOutside (waitPolls i) (if j = 0 then v else some s.statusWord) (w - j)) := by
  induction j generalizing v w with
  | zero => rfl
  | succ j ih =>
    have hpoll := step_poll (s := s) (w := w) (fun hbusy => by have := hroom hbusy; omega) v (i + j)
    have hrest := ih (w := w - 1) (fun hbusy => by have := hroom hbusy; omega) (some s.statusWord)
    rw [ite_self, Nat.sub_sub, Nat.add_comm 1 j] at hrest
    exact (run_succ hpoll j).trans hrest

/-- The polls before the completion, the completion, and the polls after it. -/
theorem run_polling {s t : State} {k l : Nat} (hbusy : s.busy = true) (hop : isEngineOp s.pendOp = true) (hl : l ≤ k)
    (he : exec (commandOf s.pendOp s.pendB) s = .next t) (hidle : t.busy = false) :
    Host.Core.run Sys2Proof.core (k + 2) { s with wait := l, inputs := waitPolls (k + 1) } =
      .next (t.withOutside [] (some t.statusWord) 0) := by
  obtain ⟨j, rfl⟩ := Nat.exists_eq_add_of_le' hl
  have hbefore := run_polls (s := s) (fun _ => le_refl l) s.readData (j + 1)
  rw [Nat.sub_self] at hbefore
  generalize (if l = 0 then s.readData else some s.statusWord) = v at hbefore
  have hengine : step (s.withOutside (waitPolls (j + 1)) v 0) = .next (t.withOutside (waitPolls (j + 1)) v 0) :=
    (step_engine (s := s.withOutside (waitPolls (j + 1)) v 0) hbusy (.inr rfl) hop).trans
      (exec_engine_withOutside _ _ _ (commandOf_engine s.pendB hop) he)
  have hafter := run_polls (s := t) (j := j + 1) (w := 0) (fun hbusy => by simp [hidle] at hbusy) v 0
  rw [Nat.zero_add, Nat.zero_sub] at hafter
  rw [show j + l + 2 = l + (j + 1 + 1) by omega, show j + l + 1 = j + 1 + l by omega]
  exact (run_add hbefore _).trans ((run_succ hengine _).trans hafter)

/-- Settles O60: for every latency the run ends in the completion's result with STATUS read (`run_polling`). -/
theorem pollingHostSeesOneResult : Obligations.PollingHostSeesOneResult := by
  intro s k l₁ l₂ hbusy hop h₁ h₂
  obtain ⟨t, he⟩ := exec_answers_next (commandOf s.pendOp s.pendB) s
  have hidle : t.busy = false := by
    obtain ⟨r, -, rfl⟩ := exec_commandOf hop he
    exact s.complete_busy r
  exact ⟨t.withOutside [] (some t.statusWord) 0, run_polling hbusy hop h₁ he hidle, run_polling hbusy hop h₂ he hidle,
    hidle, rfl, rfl⟩

end Sys2Proof.Machine
end
